-- ==== Sys2Proof/Word.lean ====
section
/-!
DEFINITION. The bit-vector types of SYCODEC: what the spec calls a byte, a word (16 bits), a 64-bit
operand or result register, and the 32-bit ERRINFO register (00_scope.md §6, 10_state.md R11 to R17).
-/

namespace Sys2Proof

/-- One byte: `OP`, `STATUS`, a buffer byte, a label code (10_state.md R13, R21). -/
abbrev Byte := BitVec 8

/-- A "word" is 16 bits (00_scope.md §6): a wire field, a register address, `TXLEN`, `RXLEN`. -/
abbrev Word := BitVec 16

/-- The width of an operand register `A0..A3` and of a result register `R0..R11` (R11, R12). -/
abbrev Reg64 := BitVec 64

/-- The width of `ERRINFO` (R17). -/
abbrev Info32 := BitVec 32

end Sys2Proof
end

