-- ==== Sys2Proof/Syntax.lean ====
section
/-!
DEFINITION. What a host can say to SYCODEC: the fourteen operations (30_encoding.md R43), the enumerated
operands (10_state.md R21, 30_encoding.md R46), the host's accesses (10_state.md R13) and the call form
of the assembler (30_encoding.md R55).
-/

namespace Sys2Proof

/-- The fourteen operations, one constructor per row of spec/opcode_table.json (R43). A command has no
operand field (R42): operands stand in `A0..A3`, `RXBUF` and `RXLEN`. -/
inductive Instr where
  | scaleToFixed
  | fixedToScale
  | pfToCode
  | decodePf
  | buildSetOutput
  | buildPoll
  | parseOutputResponse
  | wireAddr
  | buildRead
  | parseRead
  | combinePair
  | scaleSingle
  | buildWrite
  | tc16Encode
deriving DecidableEq, Repr

/-- `LABEL` (R21): the five power-factor labels, and `Unknown`. -/
inductive PfLabel where
  | unity
  | leading05
  | c05
  | c08
  | l08
  | unknown
deriving DecidableEq, Repr

/-- What a divisor selector `dsel` names (R46): the divisor of a magnitude class, the response's voltage
divisor, or the response's two-step current divisor. -/
inductive Divisor where
  | ofClass (c : Fin 4)
  | voltage
  | current
deriving DecidableEq, Repr

/-- The registers and buffer bytes a host names (R13). -/
inductive HostReg where
  | a (k : Fin 4)
  | r (k : Fin 12)
  | op
  | status
  | errinfo
  | tx (i : Nat)
  | txlen
  | rx (i : Nat)
  | rxlen
deriving DecidableEq, Repr

/-- One host access (R13, R15), or the external reset (R105). A write to a state the host may not write
is an access like any other: R12 and R13 say that it is ignored. -/
inductive HostAction where
  | read (x : HostReg)
  | writeA (k : Fin 4) (v : Reg64)
  | writeR (k : Fin 12) (v : Reg64)
  | writeOp (c : Byte)
  | writeStatus (v : Byte)
  | writeErrinfo (v : Info32)
  | writeTx (i : Nat) (v : Byte)
  | writeTxlen (v : Word)
  | writeRx (i : Nat) (v : Byte)
  | writeRxlen (v : Word)
  | reset
deriving DecidableEq, Repr

/-- The assembler's call form (R55): a mnemonic with its operands in the order of the `A` registers. -/
inductive Call where
  | scaleToFixed (value : Int)
  | fixedToScale (raw dsel : Nat)
  | pfToCode (label : Nat)
  | decodePf (raw : Nat)
  | buildSetOutput (voltage current : Int) (label : Nat)
  | buildPoll
  | parseOutputResponse (rx : List Byte)
  | wireAddr (addr : Nat)
  | buildRead (addr : Nat)
  | parseRead (rx : List Byte)
  | combinePair (addr1 addr2 raw1 raw2 : Nat)
  | scaleSingle (addr raw : Nat)
  | buildWrite (addr value : Nat)
  | tc16Encode (v : Int)
deriving DecidableEq, Repr

end Sys2Proof
end

