-- ==== Sys2Proof/Config.lean ====
section
/-!
DEFINITION. The configuration `CFG` (10_state.md R22, R23): the constants whose value the source gives,
the parameters it leaves OPEN, and the two families of bytes the spec leaves unspecified after a reset
(R25, R27). `CFG` is not architectural state; notes/assumptions/1.md says how an instance carries it.
-/

namespace Sys2Proof

/-- `BUF_CAP`, the capacity of `TXBUF` and of `RXBUF` in bytes (R13). -/
def Config.bufCap : Nat := 256

/-- `SCALE_ROUND` (R23, R59): OPEN between the two modes. -/
inductive ScaleRound where
  | nearest
  | truncate
deriving DecidableEq, Repr

/-- `SCALE_BUCKETS` (R23, R58): the three class boundaries and the scale factor of each class, at the
decided default (92_eei_decisions.md D7). -/
structure ScaleBuckets where
  upper  : Vector Nat 3 := #v[10, 100, 1000]
  factor : Vector Nat 4 := #v[1000, 100, 10, 1]
deriving DecidableEq, Repr

/-- `PF_CODE` (R22, R23): the wire code of each of the five labels. Unity's is the source's. -/
structure PfCodes where
  unity     : Word := 0x0000#16
  leading05 : Word
  c05       : Word
  c08       : Word
  l08       : Word
deriving DecidableEq, Repr

/-- One band of `PF_BANDS` (R23, R63): the closed interval `[lo, hi]` and the label it decodes to. -/
structure Band where
  lo    : Nat
  hi    : Nat
  label : PfLabel
deriving DecidableEq, Repr

/-- `CFG` (R22, R23). A field with a default is one the source or the spec gives a value for. A field
without one is OPEN. `TRAILER_FN` (R50) is a function on byte sequences of one fixed length, which is a
finite set, so it is written as plain data: `trailerTable` lists the arguments at which it differs from
`trailerConst`, and the empty table is the default constant strategy (notes/assumptions/3.md). -/
structure Config where
  /-- `PREAMBLE_LEN` -/
  preambleLen  : Nat := 5
  /-- `FRAME_ID_LEN` -/
  frameIdLen   : Nat := 1
  /-- `WORD_LEN`: bytes of a scaled field -/
  wordLen      : Nat := 2
  /-- `N_PHASE`: phases, so words per quantity -/
  nPhase       : Nat := 3
  /-- `TRAILER_LEN` -/
  trailerLen   : Nat := 2
  /-- `POLL_LEN` -/
  pollLen      : Nat := 8
  /-- `MIN_HEX_DIGITS`: the fewest hex digits of a read response payload -/
  minHexDigits : Nat := 4
  /-- `BASE_DEFAULT`. That a base is an unsigned 16-bit word is the model's choice: R22 gives a value and no
  width or sign (DESIGN CHOICE, notes/assumptions/20.md). -/
  baseDefault  : Word := 0xD000#16
  /-- `BASE_SPECIAL`, of the same type by the same choice (notes/assumptions/20.md). -/
  baseSpecial  : Word := 0xE000#16
  /-- `SPECIAL_ADDR` -/
  specialAddr  : Word := 0x0070#16
  /-- `DIV_V` -/
  divV         : Nat := 10000
  /-- `DIV_I_1` -/
  divI1        : Nat := 1000000
  /-- `DIV_I_2` -/
  divI2        : Nat := 2
  /-- `WRITE_SUFFIX` -/
  writeSuffix  : List Byte := [0x11#8, 0x11#8, 0x11#8, 0x01#8]
  /-- `SCALE_BUCKETS` -/
  scaleBuckets : ScaleBuckets := {}
  /-- `RESP_DSEL_V` -/
  respDselV    : Divisor := .voltage
  /-- `RESP_DSEL_I` -/
  respDselI    : Divisor := .current
  /-- `PREAMBLE` -/
  preamble     : List Byte
  /-- `FRAME_ID` -/
  frameId      : List Byte
  /-- `CMD_LEN` -/
  cmdLen       : Nat
  /-- `CMD` -/
  cmd          : List Byte
  /-- `TAIL_LEN` -/
  tailLen      : Nat
  /-- `TAIL` -/
  tail         : List Byte
  /-- `TRAILER_CONST` -/
  trailerConst : List Byte
  /-- `TRAILER_FN`, where it differs from the constant strategy -/
  trailerTable : List (List Byte × List Byte) := []
  /-- `POLL_FRAME` -/
  pollFrame    : List Byte
  /-- `RESP_OFF_V[p]` -/
  respOffV     : Vector Nat 3
  /-- `RESP_OFF_I[p]` -/
  respOffI     : Vector Nat 3
  /-- `RESP_OFF_PF[p]` -/
  respOffPf    : Vector Nat 3
  /-- `RESP_W_V` -/
  respWV       : Nat
  /-- `RESP_W_I` -/
  respWI       : Nat
  /-- `RESP_W_PF` -/
  respWPf      : Nat
  /-- `PF_CODE` -/
  pfCode       : PfCodes
  /-- `PF_BANDS`, in list order -/
  pfBands      : List Band
  /-- `SCALE_ROUND` -/
  scaleRound   : ScaleRound
  /-- `PAIR_TABLE`: `(addr1, addr2)` to `(scale_msb, scale_lsb)` -/
  pairTable    : List ((Word × Word) × (ℚ × ℚ))
  /-- `DIRECT_SCALE`: register address to multiplier -/
  directScale  : List (Word × ℚ)
deriving DecidableEq, Repr

/-- The constants of R22 that a configuration may override, and the decided parameters of R23, stand at
their defaults (R24 holds the others at theirs). Rules that give numbers ("0xD000", "a >= 0x3000", "raw * 50") speak of such a configuration. -/
abbrev Config.AtDefaults (c : Config) : Prop :=
  c.baseDefault = 0xD000#16 ∧ c.baseSpecial = 0xE000#16 ∧ c.specialAddr = 0x0070#16 ∧
  c.divV = 10000 ∧ c.divI1 = 1000000 ∧ c.divI2 = 2 ∧
  c.writeSuffix = [0x11#8, 0x11#8, 0x11#8, 0x01#8] ∧ c.scaleBuckets = {} ∧
  c.respDselV = .voltage ∧ c.respDselI = .current

/-- FREE VALUE (R25, R27, U22): what byte `i` of `TXBUF` holds after reset number `epoch`, before
anything writes it. -/
opaque Config.unspecifiedTx : Nat → Nat → Byte

/-- FREE VALUE (R25, R27, U22): what byte `i` of `RXBUF` holds after reset number `epoch`, before the
host writes it. -/
opaque Config.unspecifiedRx : Nat → Nat → Byte

end Sys2Proof
end

