-- ==== Sys2Proof/Machine/Layout.lean ====
section
/-!
DEFINITION. The two lengths a configuration fixes: the set-output frame's (10_state.md R24 (a)) and the
shortest response that can be parsed (41_frame_codec.md R68).
-/

namespace Sys2Proof

/-- `SET_LEN` (R24 (a)): `26 + CMD_LEN + TAIL_LEN` at the source's lengths. -/
def Config.setLen (c : Config) : Nat :=
  c.preambleLen + c.frameIdLen + c.cmdLen + 3 * c.nPhase * c.wordLen + c.tailLen + c.trailerLen

/-- The furthest byte position a group of three fields of width `w` reaches (R68). -/
def fieldsEnd (off : Vector Nat 3) (w : Nat) : Nat :=
  max (off[0] + w) (max (off[1] + w) (off[2] + w))

/-- `RESP_MIN_LEN` (R68): the smallest length at which all nine fields lie inside the buffer. -/
def Config.respMinLen (c : Config) : Nat :=
  max (fieldsEnd c.respOffV c.respWV) (max (fieldsEnd c.respOffI c.respWI) (fieldsEnd c.respOffPf c.respWPf))

end Sys2Proof
end

