-- ==== Sys2Proof/WellFormed.lean ====
section
/-!
DEFINITION. Which configurations an instance may be built from (10_state.md R24, 70_reset_and_hazards.md
R106), and which host accesses and assembler calls are well formed (10_state.md R13, 30_encoding.md R43).
-/

namespace Sys2Proof

/-! ### The clauses of R24 -/

/-- R24 (a): the set-output frame fits the transmit buffer. -/
def Config.frameFits (c : Config) : Bool := decide (c.setLen ≤ Config.bufCap)

/-- R24 (b) and R22: every constant byte sequence has its length, and every value of `TRAILER_FN` is two
bytes. -/
def Config.lengthsRight (c : Config) : Bool :=
  c.preamble.length == c.preambleLen && c.frameId.length == c.frameIdLen &&
  c.cmd.length == c.cmdLen && c.tail.length == c.tailLen &&
  c.trailerConst.length == c.trailerLen &&
  c.trailerTable.all (fun e => e.2.length == c.trailerLen) &&
  c.pollFrame.length == c.pollLen && c.writeSuffix.length == 4

/-- R24 (b), R23, R47, R51 to R53: the lengths the rules write as numbers. The fields of R22 that name
them stand at their defaults (notes/assumptions/5.md). -/
def Config.layoutStands (c : Config) : Bool :=
  c.preambleLen == 5 && c.frameIdLen == 1 && c.wordLen == 2 && c.nPhase == 3 && c.trailerLen == 2 &&
  c.pollLen == 8 && c.minHexDigits == 4

/-- A response field width is in 1..4 (R23). -/
def widthOk (w : Nat) : Bool := decide (1 ≤ w) && decide (w ≤ 4)

/-- R24 (c): the response's fields have legal widths and fit the receive buffer. -/
def Config.responseFits (c : Config) : Bool :=
  widthOk c.respWV && widthOk c.respWI && widthOk c.respWPf && decide (c.respMinLen ≤ Config.bufCap)

/-- R24 (d): the unity code is 0x0000. That the other codes are words is in their type. -/
def Config.unityIsZero (c : Config) : Bool := c.pfCode.unity == 0x0000#16

/-- R24 (e): the pair `(0x0000, 0x0001)` is no key. -/
def Config.zeroOneIsNoPair (c : Config) : Bool :=
  c.pairTable.all (fun e => e.1 != (0x0000#16, 0x0001#16))

/-- The bound of R24 (f), `2^63 / 10^8`. -/
def physBound : ℚ := 9223372036854775808 / 100000000

/-- R24 (f): every `PHYS` result of the two tables fits 64 bits. -/
def Config.scalesFit (c : Config) : Bool :=
  c.pairTable.all (fun e => decide (|65535 * e.2.1| + |255 * e.2.2 / 256| < physBound)) &&
  c.directScale.all (fun e => decide (|65535 * e.2| < physBound))

/-- R24 (g), and the range R23 gives a band's limits. -/
def Config.bandsProper (c : Config) : Bool :=
  c.pfBands.all (fun b => decide (b.lo ≤ b.hi) && decide (b.hi < 2 ^ 32) && b.label != PfLabel.unknown)

/-- R61 and R65: every divisor is a non-zero constant. No clause of R24 says so of an overridden one. -/
def Config.divisorsNonzero (c : Config) : Bool :=
  c.divV != 0 && c.divI1 != 0 && c.divI2 != 0 && c.scaleBuckets.factor.all (fun f => f != 0)

/-- R23, R50: the tables are maps, so no key stands twice in the list that holds one. -/
def Config.tablesAreMaps (c : Config) : Bool :=
  decide (c.pairTable.map Prod.fst).Nodup && decide (c.directScale.map Prod.fst).Nodup &&
  decide (c.trailerTable.map Prod.fst).Nodup

/-- R24: the well-formedness of a configuration. -/
def Config.wellFormed (c : Config) : Bool :=
  c.frameFits && c.lengthsRight && c.layoutStands && c.responseFits && c.unityIsZero && c.zeroOneIsNoPair &&
  c.scalesFit && c.bandsProper && c.divisorsNonzero && c.tablesAreMaps

/-- A configuration that meets R24. It shows that `Config.Built` has a member and nothing else: no
definition of the machine reads it. -/
def Config.witness : Config where
  preamble := List.replicate 5 0#8
  frameId := [0#8]
  cmdLen := 0
  cmd := []
  tailLen := 0
  tail := []
  trailerConst := [0#8, 0#8]
  pollFrame := List.replicate 8 0#8
  respOffV := #v[0, 0, 0]
  respOffI := #v[0, 0, 0]
  respOffPf := #v[0, 0, 0]
  respWV := 1
  respWI := 1
  respWPf := 1
  pfCode := { leading05 := 0#16, c05 := 0#16, c08 := 0#16, l08 := 0#16 }
  pfBands := []
  scaleRound := .nearest
  pairTable := []
  directScale := []

theorem Config.witness_wellFormed : Config.witness.wellFormed = true := by decide +kernel

/-- A configuration an instance can be built from: the raw fields with the proof of R24. An ill-formed
configuration has no value of this type ("does not exist", R106). -/
structure Config.Built where
  val : Config := Config.witness
  ok  : val.wellFormed = true := by exact Config.witness_wellFormed
deriving DecidableEq, Repr, Inhabited

/-- Building an instance's configuration refuses one that breaks R24 (R24, R106, U24). -/
def Config.build (c : Config) : Option Config.Built :=
  if h : c.wellFormed = true then some ⟨c, h⟩ else none

/-- The configuration of the instance that `State.reset` describes: OPEN (R23), so it has no value here.
It has no reset value either (R25). -/
opaque Config.ofThisBuild : Config.Built

/-! ### Host accesses and calls -/

/-- A command has no operand field (R42), so no operation can be ill formed. -/
def Instr.wellFormed : Instr → Bool
  | .scaleToFixed => true
  | .fixedToScale => true
  | .pfToCode => true
  | .decodePf => true
  | .buildSetOutput => true
  | .buildPoll => true
  | .parseOutputResponse => true
  | .wireAddr => true
  | .buildRead => true
  | .parseRead => true
  | .combinePair => true
  | .scaleSingle => true
  | .buildWrite => true
  | .tc16Encode => true

/-- A buffer byte exists only below `BUF_CAP` (20_memory.md R28). -/
def HostReg.wellFormed : HostReg → Bool
  | .tx i => decide (i < Config.bufCap)
  | .rx i => decide (i < Config.bufCap)
  | .a _ => true
  | .r _ => true
  | .op => true
  | .status => true
  | .errinfo => true
  | .txlen => true
  | .rxlen => true

/-- A host access is well formed when what it names exists (R13, R28). -/
def HostAction.wellFormed : HostAction → Bool
  | .read x => x.wellFormed
  | .writeTx i _ => decide (i < Config.bufCap)
  | .writeRx i _ => decide (i < Config.bufCap)
  | .writeA _ _ => true
  | .writeR _ _ => true
  | .writeOp _ => true
  | .writeStatus _ => true
  | .writeErrinfo _ => true
  | .writeTxlen _ => true
  | .writeRxlen _ => true
  | .reset => true

/-- A signed operand fits its 64-bit register (R20, R45). -/
def fitsSigned64 (v : Int) : Bool := decide (-(2 ^ 63) ≤ v) && decide (v < 2 ^ 63)

/-- An unsigned operand fits its `n`-bit slice (R43, R45). -/
def fitsBits (n v : Nat) : Bool := decide (v < 2 ^ n)

/-- A call is well formed when each operand fits the slice R43 gives it, and received bytes fit `RXBUF`. -/
def Call.wellFormed : Call → Bool
  | .scaleToFixed value => fitsSigned64 value
  | .fixedToScale raw dsel => fitsBits 32 raw && fitsBits 3 dsel
  | .pfToCode label => fitsBits 8 label
  | .decodePf raw => fitsBits 32 raw
  | .buildSetOutput voltage current label =>
      fitsSigned64 voltage && fitsSigned64 current && fitsBits 8 label
  | .buildPoll => true
  | .parseOutputResponse rx => decide (rx.length ≤ Config.bufCap)
  | .wireAddr addr => fitsBits 16 addr
  | .buildRead addr => fitsBits 16 addr
  | .parseRead rx => decide (rx.length ≤ Config.bufCap)
  | .combinePair addr1 addr2 raw1 raw2 =>
      fitsBits 16 addr1 && fitsBits 16 addr2 && fitsBits 16 raw1 && fitsBits 16 raw2
  | .scaleSingle addr raw => fitsBits 16 addr && fitsBits 16 raw
  | .buildWrite addr value => fitsBits 16 addr && fitsBits 16 value
  | .tc16Encode v => fitsSigned64 v

end Sys2Proof
end

