-- ==== Sys2Proof/Decode.lean ====
section
/-!
DEFINITION. The decoder of the command byte (30_encoding.md R42 to R44), the encoder beside it, the
entry point the host asks for, and the expansion of an assembler call into host accesses (R55).
-/

namespace Sys2Proof

/-- Why a command byte is no operation (R44). -/
inductive DecodeReject where
  /-- the value is one of the reserved operation codes -/
  | reservedOpcode (c : Byte)
deriving DecidableEq, Repr

/-- The operation that R43 assigns to the value written to `OP`, every other value being reserved
(R44). Total on the 256 bytes. -/
def decode (c : Byte) : Except DecodeReject Instr :=
  match c.toNat with
  | 0x01 => .ok .scaleToFixed
  | 0x02 => .ok .fixedToScale
  | 0x03 => .ok .pfToCode
  | 0x04 => .ok .decodePf
  | 0x10 => .ok .buildSetOutput
  | 0x11 => .ok .buildPoll
  | 0x12 => .ok .parseOutputResponse
  | 0x20 => .ok .wireAddr
  | 0x21 => .ok .buildRead
  | 0x22 => .ok .parseRead
  | 0x23 => .ok .combinePair
  | 0x24 => .ok .scaleSingle
  | 0x25 => .ok .buildWrite
  | 0x26 => .ok .tc16Encode
  | _ => .error (.reservedOpcode c)

/-- The one command byte of an operation (R43). -/
def encode : Instr → Byte
  | .scaleToFixed => 0x01#8
  | .fixedToScale => 0x02#8
  | .pfToCode => 0x03#8
  | .decodePf => 0x04#8
  | .buildSetOutput => 0x10#8
  | .buildPoll => 0x11#8
  | .parseOutputResponse => 0x12#8
  | .wireAddr => 0x20#8
  | .buildRead => 0x21#8
  | .parseRead => 0x22#8
  | .combinePair => 0x23#8
  | .scaleSingle => 0x24#8
  | .buildWrite => 0x25#8
  | .tc16Encode => 0x26#8

/-- What the decoder reads from an opcode-table row's bits: a command is one byte (R42), so its bits are
`w`'s low eight and `nbits` is always 8. -/
def decodeTableWord (_nbits w : Nat) : Option Instr :=
  match decode (BitVec.ofNat 8 w) with
  | .ok i => some i
  | .error _ => none

/-! ### The assembler's call form (R55) -/

/-- The operation a call performs (R55). -/
def callInstr : Call → Instr
  | .scaleToFixed _ => .scaleToFixed
  | .fixedToScale _ _ => .fixedToScale
  | .pfToCode _ => .pfToCode
  | .decodePf _ => .decodePf
  | .buildSetOutput _ _ _ => .buildSetOutput
  | .buildPoll => .buildPoll
  | .parseOutputResponse _ => .parseOutputResponse
  | .wireAddr _ => .wireAddr
  | .buildRead _ => .buildRead
  | .parseRead _ => .parseRead
  | .combinePair _ _ _ _ => .combinePair
  | .scaleSingle _ _ => .scaleSingle
  | .buildWrite _ _ => .buildWrite
  | .tc16Encode _ => .tc16Encode

/-- `RXBUF[i..] <- bytes`, one host access for each byte (R55). -/
def loadRxFrom (i : Nat) : List Byte → List HostAction
  | [] => []
  | b :: bs => .writeRx i b :: loadRxFrom (i + 1) bs

/-- `RXBUF, RXLEN <- bytes` (R55). -/
def loadRx (bytes : List Byte) : List HostAction :=
  loadRxFrom 0 bytes ++ [.writeRxlen (BitVec.ofNat 16 bytes.length)]

/-- The operand accesses of a call, before its `OP` write (R55). -/
def callOperands : Call → List HostAction
  | .scaleToFixed value => [.writeA 0 (BitVec.ofInt 64 value)]
  | .fixedToScale raw dsel => [.writeA 0 (BitVec.ofNat 64 raw), .writeA 1 (BitVec.ofNat 64 dsel)]
  | .pfToCode label => [.writeA 0 (BitVec.ofNat 64 label)]
  | .decodePf raw => [.writeA 0 (BitVec.ofNat 64 raw)]
  | .buildSetOutput voltage current label =>
      [.writeA 0 (BitVec.ofInt 64 voltage), .writeA 1 (BitVec.ofInt 64 current),
       .writeA 2 (BitVec.ofNat 64 label)]
  | .buildPoll => []
  | .parseOutputResponse rx => loadRx rx
  | .wireAddr addr => [.writeA 0 (BitVec.ofNat 64 addr)]
  | .buildRead addr => [.writeA 0 (BitVec.ofNat 64 addr)]
  | .parseRead rx => loadRx rx
  | .combinePair addr1 addr2 raw1 raw2 =>
      [.writeA 0 (BitVec.ofNat 64 addr1), .writeA 1 (BitVec.ofNat 64 addr2),
       .writeA 2 (BitVec.ofNat 64 raw1), .writeA 3 (BitVec.ofNat 64 raw2)]
  | .scaleSingle addr raw => [.writeA 0 (BitVec.ofNat 64 addr), .writeA 1 (BitVec.ofNat 64 raw)]
  | .buildWrite addr value => [.writeA 0 (BitVec.ofNat 64 addr), .writeA 1 (BitVec.ofNat 64 value)]
  | .tc16Encode v => [.writeA 0 (BitVec.ofInt 64 v)]

/-- The host accesses a call expands to (R55): its operands, then its `OP` write. -/
def expandCall (c : Call) : List HostAction :=
  callOperands c ++ [.writeOp (encode (callInstr c))]

end Sys2Proof
end

