-- ==== Sys2Proof/Machine/State.lean ====
section
/-!
DEFINITION. The architectural state of SYCODEC as plain data (10_state.md R10 to R19), the reasons a step
can stop, and the state after reset (R25).
-/

namespace Sys2Proof.Machine

/-- A byte buffer: the bytes something has written, as (index, byte) pairs with strictly rising indices.
An index that is not listed was written by nothing since reset: it holds no value the model knows, and
reads as a free value (R25, R27, U22; notes/assumptions/4.md). -/
abbrev Memory := List Host.Cell

/-- The canonical form of a buffer: indices strictly rising, each below `BUF_CAP` (20_memory.md R28). No
entry can equal what an unlisted index reads as, since that is no value. -/
abbrev Memory.wf (m : Memory) : Prop :=
  m.Pairwise (fun x y => x.1 < y.1) ∧ ∀ x ∈ m, x.1 < Config.bufCap

/-- The machine: the state of R10, the configuration of the instance, and two fields of the model's own.

`cfg` is `CFG` (R9, R22, R23). It is a parameter of the step and not state (R10): no step changes it, and
it stands here because the step's fixed type has no other place for a parameter
(notes/assumptions/1.md). `epoch` and `host` are the model's (notes/assumptions/4.md and 2.md). -/
structure State where
  /-- `CFG` -/
  cfg     : Config.Built
  /-- `A0..A3` (R11) -/
  a       : Vector Reg64 4
  /-- `R0..R11` (R12) -/
  r       : Vector Reg64 12
  /-- `OP` (R15) -/
  op      : Byte
  /-- `STATUS` (R16) -/
  status  : Byte
  /-- `ERRINFO` (R17) -/
  errinfo : Info32
  /-- `TXBUF` (R18) -/
  txbuf   : Memory
  /-- `TXLEN` (R18) -/
  txlen   : Word
  /-- `RXBUF` (R19) -/
  rxbuf   : Memory
  /-- `RXLEN` (R19) -/
  rxlen   : Word
  /-- The model's own: how many resets this instance has had, so that each leaves its own free bytes. -/
  epoch   : Nat
  /-- The model's own: the accesses the host has made and the block has not served, oldest first. -/
  host    : List HostAction
deriving DecidableEq, Repr

/-- Why a step stops. No operation of the block raises one: every error of the spec is a next state
(60_exceptions.md R95, R98). -/
inductive Fault where
  /-- Raised by a host access that names a buffer byte at or above `BUF_CAP`, which does not exist
  (20_memory.md R28). Safe: the block goes no further. -/
  | noSuchBufferByte (index : Nat)
deriving DecidableEq, Repr

/-- Why a step has no meaning. -/
inductive Refusal where
  /-- Raised by an operation whose meaning is not written. Safe. No operation raises it here: all
  fourteen have their meaning. -/
  | notModelled (mnemonic : String)
deriving DecidableEq, Repr

/-- The machine right after reset (R25, R105): every register and length zero, no buffer byte written,
nothing started, no host access pending. `CFG` is untouched by reset and has no reset value (R106). -/
def State.reset : State where
  cfg     := Config.ofThisBuild
  a       := Vector.replicate 4 0#64
  r       := Vector.replicate 12 0#64
  op      := 0x00#8
  status  := 0x00#8
  errinfo := 0#32
  txbuf   := []
  txlen   := 0#16
  rxbuf   := []
  rxlen   := 0#16
  epoch   := 0
  host    := []

end Sys2Proof.Machine
end

