-- ==== Sys2Proof/Machine/Flags.lean ====
section
/-!
DEFINITION. The block's only flags: the errors of 60_exceptions.md R92 with their codes, the `STATUS`
word (10_state.md R16) and the `ERRINFO` layouts (60_exceptions.md R96).
-/

namespace Sys2Proof.Machine

/-- The operand an error names (R96): `A0` to `A3`, or `RXLEN`. -/
inductive OperandIx where
  | a0
  | a1
  | a2
  | a3
  | rxlen
deriving DecidableEq, Repr

/-- Why a value is out of range (R96). -/
inductive RangeCause where
  /-- the value is negative -/
  | negative
  /-- the scaled, rounded integer is above 65535 -/
  | above16Bits
  /-- the integer is outside the signed 16-bit range -/
  | outsideSigned16
deriving DecidableEq, Repr

/-- An error with the information it records (R92, R96). -/
inductive OpError where
  | outOfRange (operand : OperandIx) (cause : RangeCause)
  | shortFrame (rxlen required : Word)
  | unknownRegisterPair (addr1 addr2 : Word)
  | incompleteResponse (rxlen : Word)
  | illegalOp (code : Byte)
  | addrOverflow (addr : Word)
  | badOperand (operand : OperandIx)
deriving DecidableEq, Repr

/-- The operand index of R96. -/
def operandIndex : OperandIx → Byte
  | .a0 => 0#8
  | .a1 => 1#8
  | .a2 => 2#8
  | .a3 => 3#8
  | .rxlen => 4#8

/-- The cause number of R96. -/
def causeNumber : RangeCause → Byte
  | .negative => 1#8
  | .above16Bits => 2#8
  | .outsideSigned16 => 3#8

/-- `STATUS.ERR` of an error (R92). -/
def errorCode : OpError → BitVec 4
  | .outOfRange _ _ => 1#4
  | .shortFrame _ _ => 2#4
  | .unknownRegisterPair _ _ => 3#4
  | .incompleteResponse _ => 4#4
  | .illegalOp _ => 5#4
  | .addrOverflow _ => 6#4
  | .badOperand _ => 7#4

/-- `ERRINFO` of an error (R96): two 16-bit halves for `ShortFrame` and `UnknownRegisterPair`, the operand
index above the cause number for `OutOfRange`, one value otherwise. -/
def errorInfo : OpError → Info32
  | .outOfRange operand cause =>
      BitVec.ofNat 32 ((operandIndex operand).toNat * 256 + (causeNumber cause).toNat)
  | .shortFrame rxlen required => BitVec.ofNat 32 (rxlen.toNat * 65536 + required.toNat)
  | .unknownRegisterPair addr1 addr2 => BitVec.ofNat 32 (addr1.toNat * 65536 + addr2.toNat)
  | .incompleteResponse rxlen => rxlen.setWidth 32
  | .illegalOp code => code.setWidth 32
  | .addrOverflow addr => addr.setWidth 32
  | .badOperand operand => (operandIndex operand).setWidth 32

/-- The `STATUS` word at the end of an operation (R16): `DONE` set, bits 6:4 zero, `ERR` as given. -/
def statusWord (err : BitVec 4) : Byte := 0x80#8 ||| err.setWidth 8

/-- `STATUS.DONE`, bit 7 (R16). -/
def State.done (s : State) : Bool := s.status.getLsbD 7

/-- `STATUS` bits 6:4, reserved (R16). -/
def State.statusReserved (s : State) : BitVec 3 := s.status.extractLsb' 4 3

/-- `STATUS.ERR`, bits 3:0 (R16). -/
def State.err (s : State) : BitVec 4 := s.status.extractLsb' 0 4

end Sys2Proof.Machine
end

