-- ==== Sys2Proof/Machine/Numeric.lean ====
section
/-!
DEFINITION. The arithmetic primitives of 00_scope.md §6: big-endian integers (R4, R5), the 16-bit two's
complement (R6), and physical quantities with their register format (R7, R8, R20). Quantities are exact
rationals.
-/

namespace Sys2Proof.Machine

/-- `be_uint` (R4): the first byte is the most significant. -/
def beUint : List Byte → Nat
  | [] => 0
  | b :: bs => b.toNat * 256 ^ bs.length + beUint bs

/-- `be_bytes` (R5): the `n` bytes of `v`, most significant first. -/
def beBytes : Nat → Nat → List Byte
  | 0, _ => []
  | n + 1, v => BitVec.ofNat 8 (v / 256 ^ n) :: beBytes n v

/-- `tc16` (R6): `v mod 65536`. -/
def tc16 (v : Int) : Word := BitVec.ofInt 16 v

/-- `val` (R8): the quantity a `PHYS` register stands for, `m / 10^8` with `m` signed. -/
def physVal (m : Reg64) : ℚ := (m.toInt : ℚ) / 100000000

/-- `Q` (R7): the number of whole units of 10^-8 in a quantity. -/
def quantise (x : ℚ) : Int := ⌊x * 100000000⌋

/-- A quantity written to a result register as `PHYS` (R20). -/
def physBits (x : ℚ) : Reg64 := BitVec.ofInt 64 (quantise x)

end Sys2Proof.Machine
end

