-- ==== Sys2Proof/Machine/Ops.lean ====
section
/-!
DEFINITION. The named operations over the buffers and the registers, and the one way an operation ends:
with its results, or with an error (60_exceptions.md R95). There is no return from an error (R98).
-/

namespace Sys2Proof.Machine

/-! ### Buffers -/

/-- The byte something has written at index `i`, if anything has. -/
def Memory.find : Memory → Nat → Option Byte
  | [], _ => none
  | (j, c) :: rest, i => if i = j then some c else Memory.find rest i

/-- What byte `i` reads as: the byte written there, else the free value (R25, R27). -/
def Memory.read (unspecified : Nat → Byte) (m : Memory) (i : Nat) : Byte :=
  (Memory.find m i).getD (unspecified i)

/-- Write one byte, keeping the indices strictly rising. -/
def Memory.write : Memory → Nat → Byte → Memory
  | [], i, b => [(i, b)]
  | (j, c) :: rest, i, b =>
      if i < j then (i, b) :: (j, c) :: rest
      else if i = j then (i, b) :: rest
      else (j, c) :: Memory.write rest i b

/-- Write bytes at `off`, `off + 1`, and so on. -/
def Memory.writeBytes : Memory → Nat → List Byte → Memory
  | m, _, [] => m
  | m, off, b :: bs => Memory.writeBytes (Memory.write m off b) (off + 1) bs

/-- `TXBUF[i]` (R18). -/
def State.txByte (s : State) (i : Nat) : Byte :=
  Memory.read (Config.unspecifiedTx s.epoch) s.txbuf i

/-- `RXBUF[i]` (R19). A byte the host has not written is a free value (R27). -/
def State.rxByte (s : State) (i : Nat) : Byte :=
  Memory.read (Config.unspecifiedRx s.epoch) s.rxbuf i

/-- `RXBUF[off .. off+n-1]`. -/
def State.rxBytes (s : State) (off n : Nat) : List Byte :=
  (List.range n).map fun k => s.rxByte (off + k)

/-- `TXBUF[0 .. TXLEN-1]`, the valid content of the transmit buffer (R18). -/
def State.txBytes (s : State) : List Byte := (List.range s.txlen.toNat).map s.txByte

/-- `MemRead(RX, off, n)` (00_scope.md §6, 20_memory.md R30): big-endian. -/
def State.memRead (s : State) (off n : Nat) : Nat := beUint (s.rxBytes off n)

/-- A build's result: `TXBUF[0 .. n-1]` takes the bytes, `TXLEN` their number, and every other byte of
`TXBUF` keeps its value (R18). -/
def State.send (s : State) (bytes : List Byte) : State :=
  { s with txbuf := Memory.writeBytes s.txbuf 0 bytes, txlen := BitVec.ofNat 16 bytes.length }

/-! ### Result registers -/

/-- `R[k] <- v` (R12). -/
def State.setR (s : State) (k : Fin 12) (v : Reg64) : State := { s with r := s.r.set k v }

/-! ### The end of an operation -/

/-- The end of an operation that completes (R16, R17). -/
def State.complete (s : State) : State := { s with status := statusWord 0#4, errinfo := 0#32 }

/-- `raise E(info)`, the block's exception (R95): `STATUS` and `ERRINFO` are written and nothing else. -/
def State.raise (s : State) (e : OpError) : State :=
  { s with status := statusWord (errorCode e), errinfo := errorInfo e }

/-- Every operation ends so: with its results written, or, at the first error, with none (R95, R97). -/
def State.finish (s : State) : Except OpError State → State
  | .ok t => t.complete
  | .error e => s.raise e

end Sys2Proof.Machine
end

