-- ==== Sys2Proof/Machine/Operands.lean ====
section
/-!
DEFINITION. Operand forms: bit slices of the operand registers (30_encoding.md R45), label codes
(10_state.md R21) and divisor selectors (30_encoding.md R46).
-/

namespace Sys2Proof.Machine

/-- `A[k][n-1:0]` (R45): the bits above the slice are ignored. -/
def State.operand (s : State) (k : Fin 4) (n : Nat) : BitVec n := s.a[k].setWidth n

/-- The label an operand byte names (R21); `none` for a code with no label, which is "unrecognized". -/
def labelOfCode (l : Byte) : Option PfLabel :=
  match l.toNat with
  | 0x00 => some .unity
  | 0x01 => some .leading05
  | 0x02 => some .c05
  | 0x03 => some .c08
  | 0x04 => some .l08
  | 0xFF => some .unknown
  | _ => none

/-- The register code of a label (R21). -/
def labelCode : PfLabel → Byte
  | .unity => 0x00#8
  | .leading05 => 0x01#8
  | .c05 => 0x02#8
  | .c08 => 0x03#8
  | .l08 => 0x04#8
  | .unknown => 0xFF#8

/-- The divisor a selector names (R46); `none` for the reserved selectors 6 and 7. -/
def divisorOfSelector (d : BitVec 3) : Option Divisor :=
  match d.toNat with
  | 0 => some (.ofClass 0)
  | 1 => some (.ofClass 1)
  | 2 => some (.ofClass 2)
  | 3 => some (.ofClass 3)
  | 4 => some .voltage
  | 5 => some .current
  | _ => none

end Sys2Proof.Machine
end

