-- ==== Sys2Proof/Machine/Scaler.lean ====
section
/-!
DEFINITION. The Value Scaler (40_value_scaler.md): magnitude classes and rounding (R58, R59), and the
meanings of `SCALE_TO_FIXED`, `FIXED_TO_SCALE`, `PF_TO_CODE` and `DECODE_PF` (R60 to R63).
-/

namespace Sys2Proof.Machine

/-- `class_of` (R58): a boundary belongs to the upper bucket. -/
def classOf (b : ScaleBuckets) (x : ℚ) : Fin 4 :=
  if x < b.upper[0] then 0 else if x < b.upper[1] then 1 else if x < b.upper[2] then 2 else 3

/-- `scale_of` (R58). -/
def scaleOf (b : ScaleBuckets) (c : Fin 4) : ℚ := b.factor[c]

/-- `round_S` (R59): ties go up under `nearest`. -/
def roundS : ScaleRound → ℚ → Int
  | .nearest, y => ⌊y + 1 / 2⌋
  | .truncate, y => ⌊y⌋

/-- The word and the class of a quantity, or why it has none (R60): the negative test comes first. The
error names the operand register the quantity came from. -/
def scaleWord (cfg : Config) (operand : OperandIx) (x : ℚ) : Except OpError (Word × Fin 4) :=
  if x < 0 then .error (.outOfRange operand .negative)
  else if roundS cfg.scaleRound (x * scaleOf cfg.scaleBuckets (classOf cfg.scaleBuckets x)) > 65535 then
    .error (.outOfRange operand .above16Bits)
  else
    .ok (BitVec.ofInt 16 (roundS cfg.scaleRound (x * scaleOf cfg.scaleBuckets (classOf cfg.scaleBuckets x))),
      classOf cfg.scaleBuckets x)

/-- The quantity a raw integer stands for under a divisor (R46, R61): exact division. -/
def divideBy (cfg : Config) (raw : Nat) : Divisor → ℚ
  | .ofClass c => (raw : ℚ) / scaleOf cfg.scaleBuckets c
  | .voltage => (raw : ℚ) / cfg.divV
  | .current => (raw : ℚ) / cfg.divI1 / cfg.divI2

/-- The wire code of a label operand (R62): total; an unrecognized label has the unity code 0x0000. -/
def pfWord (cfg : Config) (l : Byte) : Word :=
  match labelOfCode l with
  | some .unity => cfg.pfCode.unity
  | some .leading05 => cfg.pfCode.leading05
  | some .c05 => cfg.pfCode.c05
  | some .c08 => cfg.pfCode.c08
  | some .l08 => cfg.pfCode.l08
  | some .unknown => 0x0000#16
  | none => 0x0000#16

/-- The label of a raw value (R63): the first band in list order that contains it, else `Unknown`. -/
def labelOfRaw : List Band → Nat → PfLabel
  | [], _ => .unknown
  | b :: bs, raw => if b.lo ≤ raw ∧ raw ≤ b.hi then b.label else labelOfRaw bs raw

/-- `SCALE_TO_FIXED` (R60). -/
def execScaleToFixed (s : State) : Host.Outcome State Fault Refusal :=
  .next <| s.finish <| do
    let (w, c) ← scaleWord s.cfg.val .a0 (physVal s.a[0])
    return (s.setR 0 (w.setWidth 64)).setR 1 (BitVec.ofNat 64 c)

/-- `FIXED_TO_SCALE` (R61). -/
def execFixedToScale (s : State) : Host.Outcome State Fault Refusal :=
  .next <| s.finish <|
    match divisorOfSelector (s.operand 1 3) with
    | none => .error (.badOperand .a1)
    | some d => .ok (s.setR 0 (physBits (divideBy s.cfg.val (s.operand 0 32).toNat d)))

/-- `PF_TO_CODE` (R62). -/
def execPfToCode (s : State) : Host.Outcome State Fault Refusal :=
  .next <| s.finish <| .ok (s.setR 0 ((pfWord s.cfg.val (s.operand 0 8)).setWidth 64))

/-- `DECODE_PF` (R63). -/
def execDecodePf (s : State) : Host.Outcome State Fault Refusal :=
  .next <| s.finish <|
    .ok (s.setR 0 ((labelCode (labelOfRaw s.cfg.val.pfBands (s.operand 0 32).toNat)).setWidth 64))

end Sys2Proof.Machine
end

