-- ==== Sys2Proof/Machine/FrameCodec.lean ====
section
/-!
DEFINITION. The Power-Supply Frame Codec (41_frame_codec.md): the set-output frame (30_encoding.md R47,
R50), and the meanings of `BUILD_SET_OUTPUT`, `BUILD_POLL` and `PARSE_OUTPUT_RESPONSE` (R66, R67, R69).
-/

namespace Sys2Proof.Machine

/-- A word sent for every phase: a broadcast over the lanes R, Y, B (R47, R71). -/
def phaseWords (cfg : Config) (w : Word) : List Byte :=
  (List.replicate cfg.nPhase (beBytes cfg.wordLen w.toNat)).flatten

/-- The frame before its trailer (R47, R66). -/
def setOutputBody (cfg : Config) (wv wi wp : Word) : List Byte :=
  cfg.preamble ++ cfg.frameId ++ cfg.cmd ++ phaseWords cfg wv ++ phaseWords cfg wi ++ phaseWords cfg wp ++
    cfg.tail

/-- `TRAILER_FN` (R50): the constant strategy except where the configuration's table says otherwise. -/
def trailerOf (cfg : Config) (body : List Byte) : List Byte :=
  (cfg.trailerTable.lookup body).getD cfg.trailerConst

/-- The set-output frame (R47, R66). -/
def setOutputFrame (cfg : Config) (wv wi wp : Word) : List Byte :=
  setOutputBody cfg wv wi wp ++ trailerOf cfg (setOutputBody cfg wv wi wp)

/-- `BUILD_SET_OUTPUT` (R66): the voltage is tested before the current (R97). -/
def execBuildSetOutput (s : State) : Host.Outcome State Fault Refusal :=
  .next <| s.finish <| do
    let (wv, _) ← scaleWord s.cfg.val .a0 (physVal s.a[0])
    let (wi, _) ← scaleWord s.cfg.val .a1 (physVal s.a[1])
    return s.send (setOutputFrame s.cfg.val wv wi (pfWord s.cfg.val (s.operand 2 8)))

/-- `BUILD_POLL` (R67). -/
def execBuildPoll (s : State) : Host.Outcome State Fault Refusal :=
  .next <| s.finish <| .ok (s.send s.cfg.val.pollFrame)

/-- The voltage lane of phase `p` (R69). -/
def laneV (s : State) (p : Fin 3) : Reg64 :=
  physBits (divideBy s.cfg.val (s.memRead s.cfg.val.respOffV[p] s.cfg.val.respWV) s.cfg.val.respDselV)

/-- The current lane of phase `p` (R69). -/
def laneI (s : State) (p : Fin 3) : Reg64 :=
  physBits (divideBy s.cfg.val (s.memRead s.cfg.val.respOffI[p] s.cfg.val.respWI) s.cfg.val.respDselI)

/-- The raw power-factor integer of phase `p` (R69). -/
def laneRaw (s : State) (p : Fin 3) : Nat := s.memRead s.cfg.val.respOffPf[p] s.cfg.val.respWPf

/-- The power-factor label of phase `p` (R69). -/
def laneLabel (s : State) (p : Fin 3) : PfLabel := labelOfRaw s.cfg.val.pfBands (laneRaw s p)

/-- The twelve results of a parse (R69): three voltages, three currents, three raw power factors, three
label codes. -/
def responseResults (s : State) : Vector Reg64 12 :=
  #v[laneV s 0, laneV s 1, laneV s 2,
     laneI s 0, laneI s 1, laneI s 2,
     BitVec.ofNat 64 (laneRaw s 0), BitVec.ofNat 64 (laneRaw s 1), BitVec.ofNat 64 (laneRaw s 2),
     (labelCode (laneLabel s 0)).setWidth 64, (labelCode (laneLabel s 1)).setWidth 64,
     (labelCode (laneLabel s 2)).setWidth 64]

/-- `PARSE_OUTPUT_RESPONSE` (R69): the two length tests come before any field is read, and nothing but
the length is checked (R70). -/
def execParseOutputResponse (s : State) : Host.Outcome State Fault Refusal :=
  .next <| s.finish <|
    if s.rxlen.toNat > Config.bufCap then .error (.badOperand .rxlen)
    else if s.rxlen.toNat < s.cfg.val.respMinLen then
      .error (.shortFrame s.rxlen (BitVec.ofNat 16 s.cfg.val.respMinLen))
    else .ok { s with r := responseResults s }

end Sys2Proof.Machine
end

