-- ==== Sys2Proof/Machine/MeterPayload.lean ====
section
/-!
DEFINITION. The meter payload operations (42_meter_payload.md R73 to R80), with the wire-address map
(20_memory.md R35, R36) and the payload layouts (30_encoding.md R51 to R53).
-/

namespace Sys2Proof.Machine

/-- `wire_addr` (R35), an integer sum. The bases are unsigned 16-bit words (notes/assumptions/20.md). -/
def wireSum (cfg : Config) (a : Word) : Nat :=
  if a = cfg.specialAddr then a.toNat + cfg.baseSpecial.toNat else a.toNat + cfg.baseDefault.toNat

/-- The wire address as a word; no wrap and no clamp when it does not fit (R36). -/
def wireAddrOf (cfg : Config) (a : Word) : Except OpError Word :=
  if wireSum cfg a > 0xFFFF then .error (.addrOverflow a) else .ok (BitVec.ofNat 16 (wireSum cfg a))

/-- The read request payload (R51). -/
def readPayload (cfg : Config) (w : Word) : List Byte := beBytes cfg.wordLen w.toNat

/-- The write request payload (R52). -/
def writePayload (cfg : Config) (v w : Word) : List Byte :=
  beBytes cfg.wordLen v.toNat ++ cfg.writeSuffix ++ beBytes cfg.wordLen w.toNat

/-- The scales of a register pair, if it is a key of `PAIR_TABLE` (R76): the key is the ordered pair. -/
def pairScales (cfg : Config) (a1 a2 : Word) : Option (ℚ × ℚ) := cfg.pairTable.lookup (a1, a2)

/-- The Register Pair rule (R76): only the high byte of the fine register takes part. -/
def pairValue (msb lsb : ℚ) (fine coarse : Word) : ℚ :=
  (coarse.toNat : ℚ) * msb + ((fine.extractLsb' 8 8).toNat : ℚ) * lsb / 256

/-- `WIRE_ADDR` (R73). -/
def execWireAddr (s : State) : Host.Outcome State Fault Refusal :=
  .next <| s.finish <| do
    let w ← wireAddrOf s.cfg.val (s.operand 0 16)
    return s.setR 0 (w.setWidth 64)

/-- `BUILD_READ` (R74). -/
def execBuildRead (s : State) : Host.Outcome State Fault Refusal :=
  .next <| s.finish <| do
    let w ← wireAddrOf s.cfg.val (s.operand 0 16)
    return s.send (readPayload s.cfg.val w)

/-- `PARSE_READ` (R75): fewer than `MIN_HEX_DIGITS` hex digits is incomplete, two digits to a byte; the
value is the last two bytes. -/
def execParseRead (s : State) : Host.Outcome State Fault Refusal :=
  .next <| s.finish <|
    if s.rxlen.toNat > Config.bufCap then .error (.badOperand .rxlen)
    else if 2 * s.rxlen.toNat < s.cfg.val.minHexDigits then .error (.incompleteResponse s.rxlen)
    else .ok (s.setR 0 (BitVec.ofNat 64 (s.memRead (s.rxlen.toNat - 2) 2)))

/-- `COMBINE_PAIR` (R76): the lookup comes before any arithmetic and fails closed (R77). -/
def execCombinePair (s : State) : Host.Outcome State Fault Refusal :=
  .next <| s.finish <|
    match pairScales s.cfg.val (s.operand 0 16) (s.operand 1 16) with
    | none => .error (.unknownRegisterPair (s.operand 0 16) (s.operand 1 16))
    | some (msb, lsb) => .ok (s.setR 0 (physBits (pairValue msb lsb (s.operand 2 16) (s.operand 3 16))))

/-- `SCALE_SINGLE` (R78): an address outside `DIRECT_SCALE` gives the raw value, not an error. -/
def execScaleSingle (s : State) : Host.Outcome State Fault Refusal :=
  .next <| s.finish <|
    match s.cfg.val.directScale.lookup (s.operand 0 16) with
    | some m => .ok ((s.setR 0 (physBits (((s.operand 1 16).toNat : ℚ) * m))).setR 1 1#64)
    | none => .ok ((s.setR 0 ((s.operand 1 16).setWidth 64)).setR 1 0#64)

/-- `BUILD_WRITE` (R79). -/
def execBuildWrite (s : State) : Host.Outcome State Fault Refusal :=
  .next <| s.finish <| do
    let w ← wireAddrOf s.cfg.val (s.operand 0 16)
    return s.send (writePayload s.cfg.val (s.operand 1 16) w)

/-- `TC16_ENCODE` (R80): the operand is a plain signed integer. -/
def execTc16Encode (s : State) : Host.Outcome State Fault Refusal :=
  .next <| s.finish <|
    if s.a[0].toInt < -32768 ∨ s.a[0].toInt > 32767 then .error (.outOfRange .a0 .outsideSigned16)
    else .ok (s.setR 0 ((tc16 s.a[0].toInt).setWidth 64))

end Sys2Proof.Machine
end

