-- ==== Sys2Proof/Machine/Dispatch.lean ====
section
/-!
DEFINITION. The meaning of each operation, one arm each (30_encoding.md R43).
-/

namespace Sys2Proof.Machine

def exec (i : Instr) (s : State) : Host.Outcome State Fault Refusal :=
  match i with
  | .scaleToFixed => Sys2Proof.Machine.execScaleToFixed s
  | .fixedToScale => Sys2Proof.Machine.execFixedToScale s
  | .pfToCode => Sys2Proof.Machine.execPfToCode s
  | .decodePf => Sys2Proof.Machine.execDecodePf s
  | .buildSetOutput => Sys2Proof.Machine.execBuildSetOutput s
  | .buildPoll => Sys2Proof.Machine.execBuildPoll s
  | .parseOutputResponse => Sys2Proof.Machine.execParseOutputResponse s
  | .wireAddr => Sys2Proof.Machine.execWireAddr s
  | .buildRead => Sys2Proof.Machine.execBuildRead s
  | .parseRead => Sys2Proof.Machine.execParseRead s
  | .combinePair => Sys2Proof.Machine.execCombinePair s
  | .scaleSingle => Sys2Proof.Machine.execScaleSingle s
  | .buildWrite => Sys2Proof.Machine.execBuildWrite s
  | .tc16Encode => Sys2Proof.Machine.execTc16Encode s

end Sys2Proof.Machine
end

