-- ==== Sys2Proof/Machine/HostPort.lean ====
section
/-!
DEFINITION. The host's port: what one access does to the block (10_state.md R11 to R19), the start of an
operation by a write of `OP` (R15, 30_encoding.md R44), and the external reset (70_reset_and_hazards.md
R105).
-/

namespace Sys2Proof.Machine

/-- What a host read returns, zero-extended to 64 bits; `none` where no such byte exists. Reading has no
side effect (20_memory.md R33). -/
def State.hostRead (s : State) : HostReg → Option Reg64
  | .a k => some s.a[k]
  | .r k => some s.r[k]
  | .op => some (s.op.setWidth 64)
  | .status => some (s.status.setWidth 64)
  | .errinfo => some (s.errinfo.setWidth 64)
  | .tx i => if i < Config.bufCap then some ((s.txByte i).setWidth 64) else none
  | .txlen => some (s.txlen.setWidth 64)
  | .rx i => if i < Config.bufCap then some ((s.rxByte i).setWidth 64) else none
  | .rxlen => some (s.rxlen.setWidth 64)

/-- An access to byte `i` of a buffer: it has its effect where the byte exists (R28). -/
def accessByte (i : Nat) (s : State) : Host.Outcome State Fault Refusal :=
  if i < Config.bufCap then .next s else .fault (.noSuchBufferByte i)

/-- An access to a named register or buffer byte that changes nothing. -/
def accessOnly (x : HostReg) (s : State) : Host.Outcome State Fault Refusal :=
  match x with
  | .a _ => .next s
  | .r _ => .next s
  | .op => .next s
  | .status => .next s
  | .errinfo => .next s
  | .tx i => accessByte i s
  | .txlen => .next s
  | .rx i => accessByte i s
  | .rxlen => .next s

/-- A write of `c` to `OP` (R15): `OP` holds `c`, and the operation it names is performed, whole, on the
operands as they stand. A reserved code ends in `IllegalOp` (R44). -/
def startOp (c : Byte) (s : State) : Host.Outcome State Fault Refusal :=
  match decode c with
  | .ok i => exec i { s with op := c }
  | .error (.reservedOpcode code) => .next (State.raise { s with op := c } (.illegalOp code))

/-- Reset (R25, R105, R106): every register and length takes its reset value, every buffer byte becomes
unspecified anew, `CFG` is untouched, and accesses the host has yet to make stay. -/
def State.applyReset (s : State) : State :=
  { State.reset with cfg := s.cfg, epoch := s.epoch + 1, host := s.host }

/-- One host access (R13). Writes to `R`, `STATUS`, `ERRINFO`, `TXBUF` and `TXLEN` are ignored. -/
def serve (x : HostAction) (s : State) : Host.Outcome State Fault Refusal :=
  match x with
  | .read y => accessOnly y s
  | .writeA k v => .next { s with a := s.a.set k v }
  | .writeR _ _ => .next s
  | .writeOp c => startOp c s
  | .writeStatus _ => .next s
  | .writeErrinfo _ => .next s
  | .writeTx i _ => accessByte i s
  | .writeTxlen _ => .next s
  | .writeRx i v => accessByte i { s with rxbuf := Memory.write s.rxbuf i v }
  | .writeRxlen v => .next { s with rxlen := v }
  | .reset => .next s.applyReset

/-- Serve the oldest pending access; with none pending the block stays as it is, since only the host
decides whether there is a next operation (R14). -/
def serveNext (s : State) : Host.Outcome State Fault Refusal :=
  match s.host with
  | [] => .next s
  | x :: rest => serve x { s with host := rest }

end Sys2Proof.Machine
end

