-- ==== Sys2Proof/Machine/Step.lean ====
section
/-!
DEFINITION. The step: one host access, served whole (20_memory.md R32, R38). An operation is one step,
the one that serves the write of `OP` (10_state.md R15).
-/

namespace Sys2Proof.Machine

/-- One step of the block with its host: the oldest pending host access is served. -/
def step (s : State) : Host.Outcome State Fault Refusal := Sys2Proof.Machine.serveNext s

/-- The command byte `w` as the very next host access, a write of `OP`: the block has no instruction
memory (R14), so an operation is "fetched" from the host (notes/assumptions/2.md). A command is one byte
(R42), so its bits are `w`'s low eight. -/
def State.withFetchWord (s : State) (_nbits w : Nat) : State :=
  { s with host := .writeOp (BitVec.ofNat 8 w) :: s.host }

end Sys2Proof.Machine
end

