-- ==== Sys2Proof/Machine/HostSequences.lean ====
section
/-!
DEFINITION. The host sequences, which are the source's functions that include session traffic
(43_host_sequences.md R83 to R91), and the mock meter of 42_meter_payload.md R82. The host and its two
sessions are not part of the block: a sequence takes what the peer answers as an argument that nothing
constrains (R83).
-/

namespace Sys2Proof.Machine

/-- Where a message goes: the power-supply session, or the meter session with the function the transport
collaborator is told (R83). -/
inductive Channel where
  | ps
  | mtRead
  | mtWrite
deriving DecidableEq, Repr

/-- Bytes handed to a session. -/
structure Message where
  channel : Channel
  payload : List Byte
deriving DecidableEq, Repr

/-- What a session gives back for a message (R83): the send fails, nothing comes before the read
timeout, or bytes come. -/
inductive Exchange where
  | sendFailed
  | absent
  | answer (bytes : List Byte)
deriving DecidableEq, Repr

/-- How a sequence ends (R85, R91): with its value, with the block's error code, or with the host's own
`TransportError`. `unpresentable` is an answer longer than `BUF_CAP`, which R83 does not admit and R90
says cannot be presented. `stopped` is a block that answers no next state; no operation does so. -/
inductive SeqEnd (α : Type) where
  | value (v : α)
  | blockError (code : BitVec 4)
  | transportError
  | unpresentable
  | stopped
deriving DecidableEq, Repr

/-- A finished sequence: the block's state, the messages handed to sessions in order, and its end. -/
structure SeqRun (α : Type) where
  state : State
  sent  : List Message
  ended : SeqEnd α
deriving DecidableEq, Repr

/-- `A[k] <- v`, a host write between two operations (R11). -/
def State.setA (s : State) (k : Fin 4) (v : Reg64) : State := { s with a := s.a.set k v }

/-- `RXBUF[0..len-1] <- bytes ; RXLEN <- len` (R86 step 4). -/
def State.presentRx (s : State) (bytes : List Byte) : State :=
  { s with rxbuf := Memory.writeBytes s.rxbuf 0 bytes, rxlen := BitVec.ofNat 16 bytes.length }

/-- `OP <- code`, then go on only if `STATUS.ERR = 0` (R86 step 1, R91, R108 (b)). -/
def afterOp {α : Type} (i : Instr) (s : State) (k : State → SeqRun α) : SeqRun α :=
  match startOp (encode i) s with
  | .next t => if t.err = 0#4 then k t else ⟨t, [], .blockError t.err⟩
  | .fault _ => ⟨s, [], .stopped⟩
  | .refused _ => ⟨s, [], .stopped⟩

/-- `send(S, TXBUF[0..TXLEN-1])`, then `recv(S)`: an absent answer ends the sequence at once (R85). -/
def exchange {α : Type} (peer : Message → Exchange) (ch : Channel) (s : State)
    (k : List Byte → SeqRun α) : SeqRun α :=
  match peer ⟨ch, s.txBytes⟩ with
  | .sendFailed => ⟨s, [⟨ch, s.txBytes⟩], .transportError⟩
  | .absent => ⟨s, [⟨ch, s.txBytes⟩], .transportError⟩
  | .answer bytes => { k bytes with sent := ⟨ch, s.txBytes⟩ :: (k bytes).sent }

/-- Present an answer to the block, if it fits `RXBUF` (R83, R90). -/
def present {α : Type} (bytes : List Byte) (s : State) (k : State → SeqRun α) : SeqRun α :=
  if bytes.length ≤ Config.bufCap then k (s.presentRx bytes) else ⟨s, [], .unpresentable⟩

/-- Steps 1 to 5 of R86: read the raw word of one meter register. -/
def readRaw {α : Type} (peer : Message → Exchange) (addr : Word) (s : State)
    (k : Word → State → SeqRun α) : SeqRun α :=
  afterOp .buildRead (s.setA 0 (addr.setWidth 64)) fun s1 =>
    exchange peer .mtRead s1 fun p =>
      present p s1 fun s2 =>
        afterOp .parseRead s2 fun s3 => k (s3.r[0].setWidth 16) s3

/-- `read_single_register(addr)` (R86): the value, and whether it is a converted `PHYS` quantity. -/
def readSingleRegister (peer : Message → Exchange) (addr : Word) (s : State) : SeqRun (Reg64 × Bool) :=
  readRaw peer addr s fun raw s3 =>
    afterOp .scaleSingle ((s3.setA 0 (addr.setWidth 64)).setA 1 (raw.setWidth 64)) fun s4 =>
      ⟨s4, [], .value (s4.r[0], s4.r[1] == 1#64)⟩

/-- `read_register_pair(addr1, addr2)` (R87): two complete round trips, `addr1` first, then the lookup. -/
def readRegisterPair (peer1 peer2 : Message → Exchange) (addr1 addr2 : Word) (s : State) :
    SeqRun Reg64 :=
  readRaw peer1 addr1 s fun raw1 s1 =>
    readRaw peer2 addr2 s1 fun raw2 s2 =>
      afterOp .combinePair
        ((((s2.setA 0 (addr1.setWidth 64)).setA 1 (addr2.setWidth 64)).setA 2 (raw1.setWidth 64)).setA 3
          (raw2.setWidth 64))
        fun s3 => ⟨s3, [], .value s3.r[0]⟩

/-- `write_register(addr, value)` (R88): the echo is read and discarded, never looked at. -/
def writeRegister (peer : Message → Exchange) (addr value : Word) (s : State) : SeqRun Unit :=
  afterOp .buildWrite ((s.setA 0 (addr.setWidth 64)).setA 1 (value.setWidth 64)) fun s1 =>
    exchange peer .mtWrite s1 fun _echo => ⟨s1, [], .value ()⟩

/-- `set_output(voltage, current, label)` (R89): the frame is sent and nothing is expected; only a send
that fails ends it otherwise. -/
def setOutput (peer : Message → Exchange) (voltage current : Reg64) (label : Byte) (s : State) :
    SeqRun Unit :=
  afterOp .buildSetOutput (((s.setA 0 voltage).setA 1 current).setA 2 (label.setWidth 64)) fun s1 =>
    match peer ⟨.ps, s1.txBytes⟩ with
    | .sendFailed => ⟨s1, [⟨.ps, s1.txBytes⟩], .transportError⟩
    | .absent => ⟨s1, [⟨.ps, s1.txBytes⟩], .value ()⟩
    | .answer _ => ⟨s1, [⟨.ps, s1.txBytes⟩], .value ()⟩

/-- `poll_output()` (R90): the twelve results of the parse. -/
def pollOutput (peer : Message → Exchange) (s : State) : SeqRun (Vector Reg64 12) :=
  afterOp .buildPoll s fun s1 =>
    exchange peer .ps s1 fun p =>
      present p s1 fun s2 =>
        afterOp .parseOutputResponse s2 fun s3 => ⟨s3, [], .value s3.r⟩

/-! ### The mock meter of R82 -/

/-- A register store from wire address to word, the newest entry first. -/
abbrev MeterStore := List (Word × Word)

/-- On a write payload `p` the mock stores `be_uint(p[0], p[1])` at `be_uint(p[6], p[7])` (R82). -/
def mockStore (store : MeterStore) (m : Message) : MeterStore :=
  match m.channel with
  | .mtWrite =>
      (BitVec.ofNat 16 (beUint ((m.payload.drop 6).take 2)), BitVec.ofNat 16 (beUint (m.payload.take 2)))
        :: store
  | .mtRead => store
  | .ps => store

/-- On a read payload `q` the mock answers the word stored at `be_uint(q[0], q[1])`, in two bytes; on a
write it returns some echo (R82). It answers nothing for an address that holds nothing. -/
def mockPeer (store : MeterStore) (m : Message) : Exchange :=
  match m.channel with
  | .mtRead =>
      match store.lookup (BitVec.ofNat 16 (beUint (m.payload.take 2))) with
      | some v => .answer (beBytes 2 v.toNat)
      | none => .absent
  | .mtWrite => .answer m.payload
  | .ps => .absent

/-- A peer that literally echoes what it is sent, the reading R82 and conflict C5 rule out. -/
def echoPeer (m : Message) : Exchange := .answer m.payload

end Sys2Proof.Machine
end

