-- ==== Sys2Proof/Safety.lean ====
section
/-!
DEFINITION. What the claims speak of: the legal states of the block, the errors each operation may
report, the operands each operation reads, runs that never stop, and sequences whose last message nobody
answered.
-/

namespace Sys2Proof.Machine

/-- The error codes an operation may report, besides 0 (60_exceptions.md R92, R97). -/
def errorsOf : Instr → List (BitVec 4)
  | .scaleToFixed => [1#4]
  | .fixedToScale => [7#4]
  | .pfToCode => []
  | .decodePf => []
  | .buildSetOutput => [1#4]
  | .buildPoll => []
  | .parseOutputResponse => [7#4, 2#4]
  | .wireAddr => [6#4]
  | .buildRead => [6#4]
  | .parseRead => [7#4, 4#4]
  | .combinePair => [3#4]
  | .scaleSingle => []
  | .buildWrite => [6#4]
  | .tc16Encode => [1#4]

/-- The result registers an operation writes when it completes (30_encoding.md R43, 10_state.md R12). -/
def resultsOf : Instr → List (Fin 12)
  | .scaleToFixed => [0, 1]
  | .fixedToScale => [0]
  | .pfToCode => [0]
  | .decodePf => [0]
  | .buildSetOutput => []
  | .buildPoll => []
  | .parseOutputResponse => [0, 1, 2, 3, 4, 5, 6, 7, 8, 9, 10, 11]
  | .wireAddr => [0]
  | .buildRead => []
  | .parseRead => [0]
  | .combinePair => [0]
  | .scaleSingle => [0, 1]
  | .buildWrite => []
  | .tc16Encode => [0]

/-- The four build operations, which alone write `TXBUF` and `TXLEN` (R13). -/
def builds : Instr → Bool
  | .buildSetOutput => true
  | .buildPoll => true
  | .buildRead => true
  | .buildWrite => true
  | .scaleToFixed => false
  | .fixedToScale => false
  | .pfToCode => false
  | .decodePf => false
  | .parseOutputResponse => false
  | .wireAddr => false
  | .parseRead => false
  | .combinePair => false
  | .scaleSingle => false
  | .tc16Encode => false

/-- The receive buffers of two states hold the same: the same length, and the same byte at every index
below it (R19: a parse reads nothing else). -/
def SameReceived (s t : State) : Prop :=
  s.rxlen = t.rxlen ∧ ∀ i < s.rxlen.toNat, s.rxByte i = t.rxByte i

/-- Two states give an operation the same operands (R43, R45): the named slices of the named registers
agree, whatever the bits above them, and the received bytes agree for a parse. -/
def SameOperands (i : Instr) (s t : State) : Prop :=
  match i with
  | .scaleToFixed => s.a[0] = t.a[0]
  | .fixedToScale => s.operand 0 32 = t.operand 0 32 ∧ s.operand 1 3 = t.operand 1 3
  | .pfToCode => s.operand 0 8 = t.operand 0 8
  | .decodePf => s.operand 0 32 = t.operand 0 32
  | .buildSetOutput => s.a[0] = t.a[0] ∧ s.a[1] = t.a[1] ∧ s.operand 2 8 = t.operand 2 8
  | .buildPoll => True
  | .parseOutputResponse => SameReceived s t
  | .wireAddr => s.operand 0 16 = t.operand 0 16
  | .buildRead => s.operand 0 16 = t.operand 0 16
  | .parseRead => SameReceived s t
  | .combinePair =>
      s.operand 0 16 = t.operand 0 16 ∧ s.operand 1 16 = t.operand 1 16 ∧
      s.operand 2 16 = t.operand 2 16 ∧ s.operand 3 16 = t.operand 3 16
  | .scaleSingle => s.operand 0 16 = t.operand 0 16 ∧ s.operand 1 16 = t.operand 1 16
  | .buildWrite => s.operand 0 16 = t.operand 0 16 ∧ s.operand 1 16 = t.operand 1 16
  | .tc16Encode => s.a[0] = t.a[0]

/-- `OP` and `STATUS` tell one story: what `OP` holds names the operation whose end `STATUS` reports
(R15, R16, R92). -/
def State.StatusExplained (s : State) : Prop :=
  match decode s.op with
  | .ok i => s.err = 0#4 ∨ s.err ∈ errorsOf i
  | .error _ => s.err = 5#4 ∧ s.errinfo = s.op.setWidth 32

/-- Before the first operation ends, everything the block writes is as reset left it (R16, R25). -/
def State.Untouched (s : State) : Prop :=
  s.op = 0#8 ∧ s.status = 0#8 ∧ s.errinfo = 0#32 ∧ s.r = Vector.replicate 12 0#64 ∧ s.txbuf = [] ∧
  s.txlen = 0#16

/-- The legal states of the block:
both buffers are in canonical form and inside `BUF_CAP` (R28);
`TXLEN` is zero or the length of one of the built formats (30_encoding.md R54), and every byte below it
was written (R18);
`STATUS` bits 6:4 are zero (R16), no error means no error information (R17), and once `DONE` is set the
status is one that the operation in `OP` can end with (R92);
until then the block is as reset left it (R25). -/
structure State.Inv (s : State) : Prop where
  txCanonical : Memory.wf s.txbuf
  rxCanonical : Memory.wf s.rxbuf
  txLength    : s.txlen.toNat ∈ [0, 2, 8, s.cfg.val.setLen]
  txWritten   : ∀ i < s.txlen.toNat, (Memory.find s.txbuf i).isSome
  reserved    : s.statusReserved = 0#3
  noErrorInfo : s.err = 0#4 → s.errinfo = 0#32
  explained   : s.done = true → s.StatusExplained
  untouched   : s.done = false → s.Untouched

/-- Every register and length at its reset value, and no buffer byte holding a value anything knows
(R25). -/
structure State.AtResetValues (s : State) : Prop where
  operands : ∀ k : Fin 4, s.a[k] = 0#64
  results  : ∀ k : Fin 12, s.r[k] = 0#64
  op       : s.op = 0x00#8
  status   : s.status = 0x00#8
  errinfo  : s.errinfo = 0#32
  txlen    : s.txlen = 0#16
  rxlen    : s.rxlen = 0#16
  txbuf    : ∀ i, Memory.find s.txbuf i = none
  rxbuf    : ∀ i, Memory.find s.rxbuf i = none

/-- The magnitude class and the scaled, rounded integer of a quantity, as the words of R58 and R59 give
them: the statements measure the model's `classOf`, `scaleOf` and `roundS` against this relation. -/
def ScaledTo (cfg : Config) (x : ℚ) (c : Fin 4) (n : ℤ) : Prop :=
  c = (if x < cfg.scaleBuckets.upper[0] then 0
       else if x < cfg.scaleBuckets.upper[1] then 1
       else if x < cfg.scaleBuckets.upper[2] then 2 else 3) ∧
  n = ⌊x * (cfg.scaleBuckets.factor[c] : ℚ) + (if cfg.scaleRound = .nearest then 1 / 2 else 0)⌋

/-- The selector that names a divisor (30_encoding.md R46). -/
def selectorOf : Divisor → Nat
  | .ofClass c => c
  | .voltage => 4
  | .current => 5

/-- The call an operation's operands spell: a disassembly of the operand registers, or of the received
bytes, in the form of R55. -/
def callOf (i : Instr) (s : State) : Call :=
  match i with
  | .scaleToFixed => .scaleToFixed s.a[0].toInt
  | .fixedToScale => .fixedToScale (s.operand 0 32).toNat (s.operand 1 3).toNat
  | .pfToCode => .pfToCode (s.operand 0 8).toNat
  | .decodePf => .decodePf (s.operand 0 32).toNat
  | .buildSetOutput => .buildSetOutput s.a[0].toInt s.a[1].toInt (s.operand 2 8).toNat
  | .buildPoll => .buildPoll
  | .parseOutputResponse => .parseOutputResponse (s.rxBytes 0 s.rxlen.toNat)
  | .wireAddr => .wireAddr (s.operand 0 16).toNat
  | .buildRead => .buildRead (s.operand 0 16).toNat
  | .parseRead => .parseRead (s.rxBytes 0 s.rxlen.toNat)
  | .combinePair =>
      .combinePair (s.operand 0 16).toNat (s.operand 1 16).toNat (s.operand 2 16).toNat
        (s.operand 3 16).toNat
  | .scaleSingle => .scaleSingle (s.operand 0 16).toNat (s.operand 1 16).toNat
  | .buildWrite => .buildWrite (s.operand 0 16).toNat (s.operand 1 16).toNat
  | .tc16Encode => .tc16Encode s.a[0].toInt

/-- A state whose runs never stop, however far they go: no fault and no refusal. -/
def State.NeverStops (s : State) : Prop := ∀ n, ∃ t, Sys2Proof.core.run n s = .next t

/-- A sequence started in `s` sent `messages`, got no answer and ended with `TransportError` (43_host_sequences.md
R85, R91): no parse ran, so the result registers and the receive buffer are as before. -/
def EndsUnanswered {α : Type} (s : State) (messages : List Message) (run : SeqRun α) : Prop :=
  run.ended = .transportError ∧ run.sent = messages ∧ run.state.r = s.r ∧ run.state.rxbuf = s.rxbuf ∧
  run.state.rxlen = s.rxlen

end Sys2Proof.Machine
end

