-- ==== Sys2Proof/Certificates/Slice0/Obligations.lean ====
section
/-!
DEFINITION. The statements for the provers, in the order of the spec's files. `0x80#8` is `STATUS` after
an operation that completed; `0x80 + code` after one that ended in an error (10_state.md R16,
60_exceptions.md R92).
-/

open Sys2Proof Sys2Proof.Machine

/-! ### 00_scope.md: primitives -/

/-- R5: `be_bytes` is the unique sequence of `n` bytes with `be_uint(b) = v`; of a word, its high byte and
its low byte. -/
def Obligations.BigEndianBytesAreUnique : Prop :=
  (∀ n v : Nat, v < 256 ^ n →
    (beBytes n v).length = n ∧ beUint (beBytes n v) = v ∧
    ∀ bs : List Byte, bs.length = n → beUint bs = v → bs = beBytes n v) ∧
  ∀ w : Word, beBytes 2 w.toNat = [w.extractLsb' 8 8, w.extractLsb' 0 8]

/-- R8: `val(m) = m / 10^8` for a signed 64-bit `m`, `val(Q(x)) <= x < val(Q(x)) + 10^-8`, and
`Q(val(m)) = m`. -/
def Obligations.QuantisationOfQuantities : Prop :=
  (∀ m : Reg64, physVal m = (m.toInt : ℚ) / 10 ^ 8) ∧
  (∀ x : ℚ, (quantise x : ℚ) / 10 ^ 8 ≤ x ∧ x < (quantise x : ℚ) / 10 ^ 8 + 1 / 10 ^ 8) ∧
  ∀ m : Reg64, quantise (physVal m) = m.toInt

/-! ### 10_state.md: registers, reset, configuration -/

/-- R24: a configuration an instance is built from meets every clause. That `SET_LEN` is
`26 + CMD_LEN + TAIL_LEN` under every built configuration, and not only at the default lengths, is the
model's choice: it builds no instance with other lengths (notes/assumptions/5.md). -/
def Obligations.BuildRefusesIllFormedConfigurations : Prop :=
  ∀ (c : Config) (b : Config.Built), Config.build c = some b → b.val = c ∧
    (c.setLen = c.preambleLen + c.frameIdLen + c.cmdLen + 3 * c.nPhase * c.wordLen + c.tailLen + c.trailerLen ∧
      c.setLen = 26 + c.cmdLen + c.tailLen ∧ c.setLen ≤ 256) ∧
    (c.preamble.length = 5 ∧ c.cmd.length = c.cmdLen ∧ c.tail.length = c.tailLen ∧
      c.trailerConst.length = 2 ∧ c.pollFrame.length = 8 ∧ ∀ body, (trailerOf c body).length = 2) ∧
    ((∀ w ∈ [c.respWV, c.respWI, c.respWPf], 1 ≤ w ∧ w ≤ 4) ∧ c.respMinLen ≤ 256) ∧
    c.pfCode.unity = 0x0000#16 ∧
    (∀ v, ((0x0000#16, 0x0001#16), v) ∉ c.pairTable) ∧
    ((∀ e ∈ c.pairTable, |65535 * e.2.1| + |255 * e.2.2 / 256| < (2 : ℚ) ^ 63 / 10 ^ 8) ∧
      ∀ e ∈ c.directScale, |65535 * e.2| < (2 : ℚ) ^ 63 / 10 ^ 8) ∧
    ∀ e ∈ c.pfBands, e.lo ≤ e.hi ∧ e.label ≠ .unknown

/-- R25: reset puts every register and length at its reset value and does not affect `CFG`. Two clauses are
the model's: an unspecified buffer byte is one that no list holds (notes/assumptions/4.md), and the
accesses the host has yet to make stay (notes/assumptions/11.md). -/
def Obligations.ResetPutsEveryResetValue : Prop :=
  State.reset.AtResetValues ∧
  ∀ (s : State) (rest : List HostAction), s.host = .reset :: rest →
    ∃ t, step s = .next t ∧ t.AtResetValues ∧ t.cfg = s.cfg ∧ t.host = rest

/-- R11, R12, R13, R18, R19: what an operation leaves alone, whatever its end: `CFG`, the operand
registers, `OP`, `RXBUF`, `RXLEN`, every result register that is not its own, and, unless it is a build
operation, `TXBUF` and `TXLEN`; a build operation leaves every byte of `TXBUF` from the new `TXLEN` on. -/
def Obligations.OperationsWriteOnlyTheirResults : Prop :=
  ∀ (i : Instr) (s t : State), exec i s = .next t →
    t = { s with r := t.r, txbuf := t.txbuf, txlen := t.txlen, status := t.status, errinfo := t.errinfo } ∧
    (∀ k : Fin 12, k ∉ resultsOf i → t.r[k] = s.r[k]) ∧
    (builds i = false → t.txlen = s.txlen ∧ ∀ j, t.txByte j = s.txByte j) ∧
    (builds i = true → ∀ j, t.txlen.toNat ≤ j → t.txByte j = s.txByte j)

/-- R13: host writes of `R`, `STATUS`, `ERRINFO`, `TXBUF` and `TXLEN` are ignored. -/
def Obligations.HostWritesOfReadOnlyStateAreIgnored : Prop :=
  ∀ (s : State) (x : HostAction) (rest : List HostAction), s.host = x :: rest →
    ((∃ k v, x = .writeR k v) ∨ (∃ v, x = .writeStatus v) ∨ (∃ v, x = .writeErrinfo v) ∨
      (∃ v, x = .writeTxlen v) ∨ ∃ i v, i < 256 ∧ x = .writeTx i v) →
    step s = .next { s with host := rest }

/-- R11, R13: a host write of an operand register writes it and nothing else. -/
def Obligations.HostWritesAnOperandRegister : Prop :=
  ∀ (s : State) (k : Fin 4) (v : Reg64) (rest : List HostAction), s.host = .writeA k v :: rest →
    ∃ t, step s = .next t ∧ t = { s with a := t.a, host := rest } ∧ t.a[k] = v ∧
      ∀ j : Fin 4, j ≠ k → t.a[j] = s.a[j]

/-- R13, R19: a host write of a byte of `RXBUF`, or of `RXLEN`, writes it and nothing else. -/
def Obligations.HostWritesTheReceiveBuffer : Prop :=
  (∀ (s : State) (i : Nat) (v : Byte) (rest : List HostAction), i < 256 →
    s.host = .writeRx i v :: rest →
    ∃ t, step s = .next t ∧ t = { s with rxbuf := t.rxbuf, host := rest } ∧ t.rxByte i = v ∧
      ∀ j, j ≠ i → t.rxByte j = s.rxByte j) ∧
  ∀ (s : State) (v : Word) (rest : List HostAction), s.host = .writeRxlen v :: rest →
    step s = .next { s with rxlen := v, host := rest }

/-- R15: the operation that `OP`'s map assigns to `c` is performed on the state as it stands; this is the
step that runs a decoded operation. -/
def Obligations.StepRunsTheDecodedOperation : Prop :=
  ∀ (s : State) (c : Byte) (i : Instr) (rest : List HostAction),
    s.host = .writeOp c :: rest → decode c = .ok i →
    step s = exec i { s with op := c, host := rest }

/-- R15: a host read of `OP` returns the last value written, or the reset value. -/
def Obligations.OpHoldsTheLastValueWritten : Prop :=
  State.reset.hostRead .op = some 0#64 ∧
  ∀ s t : State, step s = .next t →
    t.hostRead .op =
      match s.host with
      | .writeOp c :: _ => some (c.setWidth 64)
      | .reset :: _ => some 0#64
      | _ => s.hostRead .op

/-- R16, R17: every operation ends with `DONE` set, bits 6:4 zero, an error code it may report or none,
and no error information where there is no error. -/
def Obligations.EveryOperationReportsItsEnd : Prop :=
  ∀ (i : Instr) (s : State), ∃ t, exec i s = .next t ∧ t.done = true ∧ t.statusReserved = 0#3 ∧
    (t.err = 0#4 ∨ t.err ∈ errorsOf i) ∧ (t.err = 0#4 → t.errinfo = 0#32)

/-- R16: `DONE` is never cleared except by reset. -/
def Obligations.DoneIsClearedOnlyByReset : Prop :=
  ∀ s t : State, step s = .next t → s.done = true → (∀ rest, s.host ≠ .reset :: rest) → t.done = true

/-- R20, R24 (f): no `PHYS` result wraps; the register, read as signed, is `Q` of the exact result. -/
def Obligations.PhysResultsNeverWrap : Prop :=
  ∀ (c : Config.Built),
    (∀ (a1 a2 : Word) (m l : ℚ) (fine coarse : Word), pairScales c.val a1 a2 = some (m, l) →
      (physBits (pairValue m l fine coarse)).toInt = ⌊pairValue m l fine coarse * 10 ^ 8⌋) ∧
    (∀ (a : Word) (m : ℚ) (raw : Word), c.val.directScale.lookup a = some m →
      (physBits ((raw.toNat : ℚ) * m)).toInt = ⌊(raw.toNat : ℚ) * m * 10 ^ 8⌋) ∧
    ∀ (raw : Nat) (d : Divisor), raw < 2 ^ 32 →
      (physBits (divideBy c.val raw d)).toInt = ⌊divideBy c.val raw d * 10 ^ 8⌋

/-- R21: the label codes, and that an operand byte names the label whose code it is. -/
def Obligations.LabelCodesAgree : Prop :=
  labelCode .unity = 0x00#8 ∧ labelCode .leading05 = 0x01#8 ∧ labelCode .c05 = 0x02#8 ∧
  labelCode .c08 = 0x03#8 ∧ labelCode .l08 = 0x04#8 ∧ labelCode .unknown = 0xFF#8 ∧
  ∀ l : PfLabel, labelOfCode (labelCode l) = some l

/-- R26, R45: an operation's end is a function of its operands and of the configuration. Two states that
agree on the operand slices R43 names (whatever the bits above them), or on the received bytes below
`RXLEN`, give the same `STATUS` and `ERRINFO`, and on completion the same results and the same built
bytes. -/
def Obligations.ResultsDependOnlyOnOperands : Prop :=
  ∀ (i : Instr) (s s' t t' : State), s.cfg = s'.cfg → SameOperands i s s' →
    exec i s = .next t → exec i s' = .next t' →
    t.status = t'.status ∧ t.errinfo = t'.errinfo ∧
    (t.err = 0#4 → (∀ k ∈ resultsOf i, t.r[k] = t'.r[k]) ∧
      (builds i = true → t.txlen = t'.txlen ∧ ∀ j < t.txlen.toNat, t.txByte j = t'.txByte j))

/-! ### 20_memory.md: buffers and the wire-address map -/

/-- R28: a host access to a buffer byte at or above `BUF_CAP` names nothing that exists; that the model
stops there is its own choice (notes/assumptions/6.md). -/
def Obligations.AccessOutsideTheBuffersStops : Prop :=
  ∀ (s : State) (i : Nat) (v : Byte) (rest : List HostAction), 256 ≤ i →
    (s.host = .writeRx i v :: rest ∨ s.host = .writeTx i v :: rest ∨ s.host = .read (.rx i) :: rest ∨
      s.host = .read (.tx i) :: rest) →
    step s = .fault (.noSuchBufferByte i)

/-- R30: reading the same bytes with a narrower width at the same offset sees the most significant bytes;
at offset `off+n-m` it sees the `m` least significant ones. -/
def Obligations.NarrowReadsSeeEndsOfAField : Prop :=
  ∀ (s : State) (off n m : Nat), m ≤ n →
    s.memRead off m = s.memRead off n / 256 ^ (n - m) ∧
    s.memRead (off + n - m) m = s.memRead off n % 256 ^ m

/-- R33: a host read has no side effect. -/
def Obligations.HostReadsChangeNothing : Prop :=
  ∀ (s : State) (x : HostReg) (rest : List HostAction), s.host = .read x :: rest →
    (∃ v, s.hostRead x = some v) → step s = .next { s with host := rest }

/-- R37: at the source's constants `WIRE_ADDR` completes exactly below 0x3000; its results lie in
0xD000..0xFFFF, 0xD070 never occurs, and 0xE070 comes from 0x0070 and from 0x1070 and from nothing
else. -/
def Obligations.WireAddressesThatOccur : Prop :=
  ∀ (s t : State) (a : Nat), s.cfg.val.AtDefaults → a = s.a[0].toNat % 65536 →
    exec .wireAddr s = .next t →
    (t.err = 0#4 ↔ a < 0x3000) ∧
    (t.err = 0#4 → 0xD000 ≤ t.r[0].toNat ∧ t.r[0].toNat ≤ 0xFFFF ∧ t.r[0].toNat ≠ 0xD070 ∧
      (t.r[0].toNat = 0xE070 ↔ a = 0x0070 ∨ a = 0x1070))

/-! ### 30_encoding.md: operation codes, calls -/

/-- R43: words of the operation map, read off the table. -/
def Obligations.CodesReadAsTheMapSays : Prop :=
  decode 0x01#8 = .ok .scaleToFixed ∧ decode 0x02#8 = .ok .fixedToScale ∧ decode 0x03#8 = .ok .pfToCode ∧
  decode 0x04#8 = .ok .decodePf ∧ decode 0x10#8 = .ok .buildSetOutput ∧ decode 0x11#8 = .ok .buildPoll ∧
  decode 0x12#8 = .ok .parseOutputResponse ∧ decode 0x20#8 = .ok .wireAddr ∧
  decode 0x21#8 = .ok .buildRead ∧ decode 0x22#8 = .ok .parseRead ∧ decode 0x23#8 = .ok .combinePair ∧
  decode 0x24#8 = .ok .scaleSingle ∧ decode 0x25#8 = .ok .buildWrite ∧ decode 0x26#8 = .ok .tc16Encode

/-- R42, R43: a byte decodes to an operation exactly when it is that operation's code. -/
def Obligations.DecodeAndEncodeAgree : Prop :=
  ∀ (c : Byte) (i : Instr), decode c = .ok i ↔ c = encode i

/-- R44: a reserved operation code ends in `IllegalOp` with `ERRINFO = opcode`, and nothing else
changes; every other code is some operation's. -/
def Obligations.ReservedCodesEndInIllegalOp : Prop :=
  ∀ c : Byte,
    ((c.toNat = 0x00 ∨ (0x05 ≤ c.toNat ∧ c.toNat ≤ 0x0F) ∨ (0x13 ≤ c.toNat ∧ c.toNat ≤ 0x1F) ∨
        (0x27 ≤ c.toNat ∧ c.toNat ≤ 0xFF)) →
      ∀ (s : State) (rest : List HostAction), s.host = .writeOp c :: rest →
        step s = .next { s with op := c, host := rest, status := 0x85#8, errinfo := c.setWidth 32 }) ∧
    (¬ (c.toNat = 0x00 ∨ (0x05 ≤ c.toNat ∧ c.toNat ≤ 0x0F) ∨ (0x13 ≤ c.toNat ∧ c.toNat ≤ 0x1F) ∨
        (0x27 ≤ c.toNat ∧ c.toNat ≤ 0xFF)) →
      ∃ i, decode c = .ok i)

/-- R45, R55: assembling a well-formed call and serving its host accesses puts exactly its operands where
the operation reads them, and nothing else; the access after them starts the operation. No bit of an
operand is dropped. -/
def Obligations.CallsDeliverTheirOperands : Prop :=
  ∀ (c : Call) (s : State) (rest : List HostAction), c.wellFormed = true → s.host = expandCall c ++ rest →
    ∃ t, Sys2Proof.core.run (callOperands c).length s = .next t ∧ callOf (callInstr c) t = c ∧
      t = { s with a := t.a, rxbuf := t.rxbuf, rxlen := t.rxlen,
                   host := .writeOp (encode (callInstr c)) :: rest } ∧
      Sys2Proof.core.run (expandCall c).length s =
        exec (callInstr c) { t with op := encode (callInstr c), host := rest }

/-- R47: every field of the set-output frame stands at its offset. -/
def Obligations.SetOutputFieldOffsets : Prop :=
  ∀ (s t : State) (xv xi : ℚ) (cv ci : Fin 4) (nv ni : ℤ) (l m : Nat),
    xv = (s.a[0].toInt : ℚ) / 10 ^ 8 → xi = (s.a[1].toInt : ℚ) / 10 ^ 8 →
    ScaledTo s.cfg.val xv cv nv → ScaledTo s.cfg.val xi ci ni →
    l = s.cfg.val.cmdLen → m = s.cfg.val.tailLen →
    exec .buildSetOutput s = .next t → t.err = 0#4 →
    t.txlen.toNat = 26 + l + m ∧
    (∀ k < 5, s.cfg.val.preamble[k]? = some (t.txByte k)) ∧
    s.cfg.val.frameId = [t.txByte 5] ∧
    (∀ k < l, s.cfg.val.cmd[k]? = some (t.txByte (6 + k))) ∧
    (∀ p < 3,
      [t.txByte (6 + l + 2 * p), t.txByte (7 + l + 2 * p)] = [BitVec.ofInt 8 (nv / 256), BitVec.ofInt 8 nv] ∧
      [t.txByte (12 + l + 2 * p), t.txByte (13 + l + 2 * p)] =
        [BitVec.ofInt 8 (ni / 256), BitVec.ofInt 8 ni] ∧
      [t.txByte (18 + l + 2 * p), t.txByte (19 + l + 2 * p)] =
        [BitVec.ofNat 8 ((pfWord s.cfg.val (s.operand 2 8)).toNat / 256),
         BitVec.ofNat 8 (pfWord s.cfg.val (s.operand 2 8)).toNat]) ∧
    (∀ k < m, s.cfg.val.tail[k]? = some (t.txByte (24 + l + k))) ∧
    [t.txByte (24 + l + m), t.txByte (25 + l + m)] =
      trailerOf s.cfg.val ((List.range (24 + l + m)).map t.txByte)

/-! ### 40_value_scaler.md -/

/-- R58: at the decided default the class counts the digits before the decimal point, the factors are
1000, 100, 10, 1, and a value below 1000 scales to less than 10000 before rounding. -/
def Obligations.DefaultBucketsCountDigits : Prop :=
  ∀ x : ℚ, 0 ≤ x →
    (classOf {} x = 0 ↔ x < 10) ∧ (classOf {} x = 1 ↔ 10 ≤ x ∧ x < 100) ∧
    (classOf {} x = 2 ↔ 100 ≤ x ∧ x < 1000) ∧ (classOf {} x = 3 ↔ 1000 ≤ x) ∧
    scaleOf {} 0 = 1000 ∧ scaleOf {} 1 = 100 ∧ scaleOf {} 2 = 10 ∧ scaleOf {} 3 = 1 ∧
    (x < 1000 → x * scaleOf {} (classOf {} x) < 10000)

/-- R60: `SCALE_TO_FIXED`, its result and its two errors. -/
def Obligations.ScaleToFixedResult : Prop :=
  ∀ (s : State) (x : ℚ) (c : Fin 4) (n : ℤ),
    x = (s.a[0].toInt : ℚ) / 10 ^ 8 → ScaledTo s.cfg.val x c n →
    (0 ≤ x → n ≤ 65535 →
      exec .scaleToFixed s = .next
        { s with r := (s.r.set 0 (BitVec.ofInt 64 n)).set 1 (BitVec.ofNat 64 c),
                 status := 0x80#8, errinfo := 0#32 }) ∧
    (x < 0 → exec .scaleToFixed s = .next { s with status := 0x81#8, errinfo := 0x00000001#32 }) ∧
    (0 ≤ x → 65535 < n →
      exec .scaleToFixed s = .next { s with status := 0x81#8, errinfo := 0x00000002#32 })

/-- R61: `FIXED_TO_SCALE`, its result for each selector and its error for the reserved ones. -/
def Obligations.FixedToScaleResult : Prop :=
  ∀ (s : State) (raw d : Nat) (x : ℚ), raw = s.a[0].toNat % 2 ^ 32 → d = s.a[1].toNat % 8 →
    (((∃ c : Fin 4, d = c ∧ x = (raw : ℚ) / (s.cfg.val.scaleBuckets.factor[c] : ℚ)) ∨
        (d = 4 ∧ x = (raw : ℚ) / s.cfg.val.divV) ∨
        (d = 5 ∧ x = (raw : ℚ) / s.cfg.val.divI1 / s.cfg.val.divI2)) →
      exec .fixedToScale s = .next
        { s with r := s.r.set 0 (BitVec.ofInt 64 ⌊x * 10 ^ 8⌋), status := 0x80#8, errinfo := 0#32 }) ∧
    (6 ≤ d → exec .fixedToScale s = .next { s with status := 0x87#8, errinfo := 0x00000001#32 })

/-- R61: at the source's divisors the register is an integer multiple of the raw value, so that nothing
is lost. -/
def Obligations.FixedToScaleIsExactAtSourceDivisors : Prop :=
  ∀ (s : State) (raw d : Nat), s.cfg.val.AtDefaults → raw = s.a[0].toNat % 2 ^ 32 →
    d = s.a[1].toNat % 8 → d < 6 →
    ∃ t, exec .fixedToScale s = .next t ∧
      [100000, 1000000, 10000000, 100000000, 10000, 50][d]?.map (raw * ·) = some t.r[0].toNat

/-- R62: `PF_TO_CODE` is total, with the unity code for every unrecognized label. -/
def Obligations.PfToCodeResult : Prop :=
  ∀ (s : State) (l : Nat), l = s.a[0].toNat % 256 →
    ∃ w : Word,
      exec .pfToCode s = .next
        { s with r := s.r.set 0 (w.setWidth 64), status := 0x80#8, errinfo := 0#32 } ∧
      (l = 0 → w = 0x0000#16) ∧ (l = 1 → w = s.cfg.val.pfCode.leading05) ∧
      (l = 2 → w = s.cfg.val.pfCode.c05) ∧ (l = 3 → w = s.cfg.val.pfCode.c08) ∧
      (l = 4 → w = s.cfg.val.pfCode.l08) ∧ (5 ≤ l → w = 0x0000#16)

/-- R63: `DECODE_PF` takes the first band in list order that contains the value, and `Unknown` where
none does. -/
def Obligations.DecodePfResult : Prop :=
  ∀ (s : State) (raw : Nat), raw = s.a[0].toNat % 2 ^ 32 →
    (∀ (before after : List Band) (b : Band), s.cfg.val.pfBands = before ++ b :: after →
      (∀ b' ∈ before, ¬ (b'.lo ≤ raw ∧ raw ≤ b'.hi)) → b.lo ≤ raw → raw ≤ b.hi →
      exec .decodePf s = .next
        { s with r := s.r.set 0 ((labelCode b.label).setWidth 64), status := 0x80#8, errinfo := 0#32 }) ∧
    ((∀ b ∈ s.cfg.val.pfBands, ¬ (b.lo ≤ raw ∧ raw ≤ b.hi)) →
      exec .decodePf s = .next
        { s with r := s.r.set 0 0xFF#64, status := 0x80#8, errinfo := 0#32 })

/-- R64: the round trip of the scaler at the default buckets. What `SCALE_TO_FIXED` returns, given to `FIXED_TO_SCALE` with the
class as selector, comes back within one scale step, in the sense of the rounding mode; the source's four
voltages come back exactly. -/
def Obligations.ScalerRoundTrip : Prop :=
  ∀ (s t u : State) (x y scale : ℚ), s.cfg.val.scaleBuckets = {} → x = (s.a[0].toInt : ℚ) / 10 ^ 8 →
    exec .scaleToFixed s = .next t → t.err = 0#4 →
    u.cfg = s.cfg → u.a[0] = t.r[0] → u.a[1] = t.r[1] →
    [(1000 : ℚ), 100, 10, 1][t.r[1].toNat]? = some scale → y = (t.r[0].toNat : ℚ) / scale →
    ∃ v, exec .fixedToScale u = .next v ∧ v.err = 0#4 ∧ (v.r[0].toInt : ℚ) / 10 ^ 8 = y ∧
      (s.cfg.val.scaleRound = .nearest → |y - x| ≤ 1 / (2 * scale)) ∧
      (s.cfg.val.scaleRound = .truncate → 0 ≤ x - y ∧ x - y < 1 / scale) ∧
      (x = 1 ∨ x = 10 ∨ x = 100 ∨ x = 499 → y = x)

/-! ### 41_frame_codec.md -/

/-- R66: `BUILD_SET_OUTPUT` on values that scale: the frame stands in `TXBUF[0..SET_LEN-1]`, every other
byte of `TXBUF` keeps its value, and no result register is written. The trailer is the value of the
configured `TRAILER_FN` at the bytes before it (R50): the one its table gives, else the constant
(notes/assumptions/3.md). -/
def Obligations.BuildSetOutputFrame : Prop :=
  ∀ (s : State) (xv xi : ℚ) (cv ci : Fin 4) (nv ni : ℤ) (wp : Word) (body trailer : List Byte),
    xv = (s.a[0].toInt : ℚ) / 10 ^ 8 → xi = (s.a[1].toInt : ℚ) / 10 ^ 8 →
    ScaledTo s.cfg.val xv cv nv → ScaledTo s.cfg.val xi ci ni →
    0 ≤ xv → nv ≤ 65535 → 0 ≤ xi → ni ≤ 65535 →
    wp = pfWord s.cfg.val (s.operand 2 8) →
    body = s.cfg.val.preamble ++ s.cfg.val.frameId ++ s.cfg.val.cmd ++
      [BitVec.ofInt 8 (nv / 256), BitVec.ofInt 8 nv, BitVec.ofInt 8 (nv / 256), BitVec.ofInt 8 nv,
       BitVec.ofInt 8 (nv / 256), BitVec.ofInt 8 nv] ++
      [BitVec.ofInt 8 (ni / 256), BitVec.ofInt 8 ni, BitVec.ofInt 8 (ni / 256), BitVec.ofInt 8 ni,
       BitVec.ofInt 8 (ni / 256), BitVec.ofInt 8 ni] ++
      [BitVec.ofNat 8 (wp.toNat / 256), BitVec.ofNat 8 wp.toNat, BitVec.ofNat 8 (wp.toNat / 256),
       BitVec.ofNat 8 wp.toNat, BitVec.ofNat 8 (wp.toNat / 256), BitVec.ofNat 8 wp.toNat] ++ s.cfg.val.tail →
    ((body, trailer) ∈ s.cfg.val.trailerTable ∨
      trailer = s.cfg.val.trailerConst ∧ ∀ e ∈ s.cfg.val.trailerTable, e.1 ≠ body) →
    ∃ t, exec .buildSetOutput s = .next t ∧
      t = { s with txbuf := t.txbuf, txlen := BitVec.ofNat 16 s.cfg.val.setLen,
                   status := 0x80#8, errinfo := 0#32 } ∧
      (body ++ trailer).length = s.cfg.val.setLen ∧
      (∀ k < s.cfg.val.setLen, (body ++ trailer)[k]? = some (t.txByte k)) ∧
      ∀ k, s.cfg.val.setLen ≤ k → t.txByte k = s.txByte k

/-- R66, R97: the errors of `BUILD_SET_OUTPUT` in their order; a bad voltage hides a bad current. -/
def Obligations.BuildSetOutputErrorsInOrder : Prop :=
  ∀ (s : State) (xv xi : ℚ) (cv ci : Fin 4) (nv ni : ℤ),
    xv = (s.a[0].toInt : ℚ) / 10 ^ 8 → xi = (s.a[1].toInt : ℚ) / 10 ^ 8 →
    ScaledTo s.cfg.val xv cv nv → ScaledTo s.cfg.val xi ci ni →
    (xv < 0 → exec .buildSetOutput s = .next { s with status := 0x81#8, errinfo := 0x00000001#32 }) ∧
    (0 ≤ xv → 65535 < nv →
      exec .buildSetOutput s = .next { s with status := 0x81#8, errinfo := 0x00000002#32 }) ∧
    (0 ≤ xv → nv ≤ 65535 → xi < 0 →
      exec .buildSetOutput s = .next { s with status := 0x81#8, errinfo := 0x00000101#32 }) ∧
    (0 ≤ xv → nv ≤ 65535 → 0 ≤ xi → 65535 < ni →
      exec .buildSetOutput s = .next { s with status := 0x81#8, errinfo := 0x00000102#32 })

/-- R112: an unrecognized label builds the same frame as `unity`, with no error to tell them apart. -/
def Obligations.UnrecognizedLabelBuildsUnityFrame : Prop :=
  ∀ (s s' t t' : State), s.cfg = s'.cfg → s.a[0] = s'.a[0] → s.a[1] = s'.a[1] →
    5 ≤ s.a[2].toNat % 256 → s'.a[2].toNat % 256 = 0 →
    exec .buildSetOutput s = .next t → exec .buildSetOutput s' = .next t' →
    t.status = t'.status ∧ t.errinfo = t'.errinfo ∧
    (t.err = 0#4 → t.txlen = t'.txlen ∧ ∀ j < t.txlen.toNat, t.txByte j = t'.txByte j)

/-- R110: with the default strategy the two trailer bytes are the configured constant, whatever the
voltage, the current and the label. -/
def Obligations.ConstantTrailerIgnoresTheFields : Prop :=
  ∀ (s t : State) (l m : Nat), s.cfg.val.trailerTable = [] → l = s.cfg.val.cmdLen →
    m = s.cfg.val.tailLen → exec .buildSetOutput s = .next t → t.err = 0#4 →
    s.cfg.val.trailerConst = [t.txByte (24 + l + m), t.txByte (25 + l + m)]

/-- R67: `BUILD_POLL` puts the eight constant bytes in `TXBUF[0..7]` and leaves the rest of `TXBUF`. -/
def Obligations.BuildPollFrame : Prop :=
  ∀ s : State, ∃ t, exec .buildPoll s = .next t ∧
    t = { s with txbuf := t.txbuf, txlen := 8#16, status := 0x80#8, errinfo := 0#32 } ∧
    (∀ k < 8, s.cfg.val.pollFrame[k]? = some (t.txByte k)) ∧ ∀ k, 8 ≤ k → t.txByte k = s.txByte k

/-- R68: `RESP_MIN_LEN` is the smallest length at which every one of the nine fields lies inside. -/
def Obligations.ResponseMinimumIsLeast : Prop :=
  ∀ (c : Config) (n : Nat), c.respMinLen ≤ n ↔
    ∀ p : Fin 3, c.respOffV[p] + c.respWV ≤ n ∧ c.respOffI[p] + c.respWI ≤ n ∧
      c.respOffPf[p] + c.respWPf ≤ n

/-- R69: `PARSE_OUTPUT_RESPONSE`, its twelve results and its two errors in their order. -/
def Obligations.ParseOutputResponseResult : Prop :=
  ∀ (s : State) (n : Nat), n = s.rxlen.toNat →
    (256 < n → exec .parseOutputResponse s = .next { s with status := 0x87#8, errinfo := 0x00000004#32 }) ∧
    (n ≤ 256 → n < s.cfg.val.respMinLen →
      exec .parseOutputResponse s = .next
        { s with status := 0x82#8, errinfo := BitVec.ofNat 32 (n * 65536 + s.cfg.val.respMinLen) }) ∧
    (n ≤ 256 → s.cfg.val.respMinLen ≤ n →
      ∃ t, exec .parseOutputResponse s = .next t ∧
        t = { s with r := t.r, status := 0x80#8, errinfo := 0#32 } ∧
        ∀ p : Fin 3,
          t.r[(p : Nat)]? = some (BitVec.ofInt 64 ⌊divideBy s.cfg.val
            (s.memRead s.cfg.val.respOffV[p] s.cfg.val.respWV) s.cfg.val.respDselV * 10 ^ 8⌋) ∧
          t.r[3 + (p : Nat)]? = some (BitVec.ofInt 64 ⌊divideBy s.cfg.val
            (s.memRead s.cfg.val.respOffI[p] s.cfg.val.respWI) s.cfg.val.respDselI * 10 ^ 8⌋) ∧
          (t.r[6 + (p : Nat)]?).map BitVec.toNat =
            some (s.memRead s.cfg.val.respOffPf[p] s.cfg.val.respWPf) ∧
          t.r[9 + (p : Nat)]? = some ((labelCode (labelOfRaw s.cfg.val.pfBands
            (s.memRead s.cfg.val.respOffPf[p] s.cfg.val.respWPf))).setWidth 64))

/-- R69: each lane of a parse is what the scaler's own operations give: the voltage and the current are
what `FIXED_TO_SCALE` gives for the field with the configured selector, the label is what `DECODE_PF`
gives for the raw power factor. -/
def Obligations.ParseLanesAreScalerResults : Prop :=
  ∀ (s t u v : State) (p : Fin 3), exec .parseOutputResponse s = .next t → t.err = 0#4 → u.cfg = s.cfg →
    (u.a[0].toNat = s.memRead s.cfg.val.respOffV[p] s.cfg.val.respWV →
      u.a[1].toNat = selectorOf s.cfg.val.respDselV → exec .fixedToScale u = .next v →
      v.err = 0#4 ∧ t.r[(p : Nat)]? = some v.r[0]) ∧
    (u.a[0].toNat = s.memRead s.cfg.val.respOffI[p] s.cfg.val.respWI →
      u.a[1].toNat = selectorOf s.cfg.val.respDselI → exec .fixedToScale u = .next v →
      v.err = 0#4 ∧ t.r[3 + (p : Nat)]? = some v.r[0]) ∧
    (u.a[0].toNat = s.memRead s.cfg.val.respOffPf[p] s.cfg.val.respWPf → exec .decodePf u = .next v →
      t.r[6 + (p : Nat)]? = some u.a[0] ∧ t.r[9 + (p : Nat)]? = some v.r[0])

/-- R49, R70, R71: lane `p` of a parse depends only on the bytes of phase `p`'s own field: nothing else
in the buffer, whatever it holds, changes it. -/
def Obligations.ParseLanesSeeOnlyTheirField : Prop :=
  ∀ (s s' t t' : State) (p : Fin 3), s.cfg = s'.cfg → exec .parseOutputResponse s = .next t →
    exec .parseOutputResponse s' = .next t' → t.err = 0#4 → t'.err = 0#4 →
    ((∀ k < s.cfg.val.respWV,
        s.rxByte (s.cfg.val.respOffV[p] + k) = s'.rxByte (s.cfg.val.respOffV[p] + k)) →
      t.r[(p : Nat)]? = t'.r[(p : Nat)]?) ∧
    ((∀ k < s.cfg.val.respWI,
        s.rxByte (s.cfg.val.respOffI[p] + k) = s'.rxByte (s.cfg.val.respOffI[p] + k)) →
      t.r[3 + (p : Nat)]? = t'.r[3 + (p : Nat)]?) ∧
    ((∀ k < s.cfg.val.respWPf,
        s.rxByte (s.cfg.val.respOffPf[p] + k) = s'.rxByte (s.cfg.val.respOffPf[p] + k)) →
      t.r[6 + (p : Nat)]? = t'.r[6 + (p : Nat)]? ∧ t.r[9 + (p : Nat)]? = t'.r[9 + (p : Nat)]?)

/-! ### 42_meter_payload.md -/

/-- R73: `WIRE_ADDR`, its result and its error. -/
def Obligations.WireAddrResult : Prop :=
  ∀ (s : State) (a w : Nat), a = s.a[0].toNat % 65536 →
    w = (if a = s.cfg.val.specialAddr.toNat then a + s.cfg.val.baseSpecial.toNat
         else a + s.cfg.val.baseDefault.toNat) →
    (w ≤ 0xFFFF → exec .wireAddr s = .next
      { s with r := s.r.set 0 (BitVec.ofNat 64 w), status := 0x80#8, errinfo := 0#32 }) ∧
    (0xFFFF < w → exec .wireAddr s = .next { s with status := 0x86#8, errinfo := BitVec.ofNat 32 a })

/-- R74: `BUILD_READ`, its two bytes and its error. -/
def Obligations.BuildReadPayload : Prop :=
  ∀ (s : State) (a w : Nat), a = s.a[0].toNat % 65536 →
    w = (if a = s.cfg.val.specialAddr.toNat then a + s.cfg.val.baseSpecial.toNat
         else a + s.cfg.val.baseDefault.toNat) →
    (w ≤ 0xFFFF → ∃ t, exec .buildRead s = .next t ∧
      t = { s with txbuf := t.txbuf, txlen := 2#16, status := 0x80#8, errinfo := 0#32 } ∧
      t.txByte 0 = BitVec.ofNat 8 (w / 256) ∧ t.txByte 1 = BitVec.ofNat 8 w ∧
      ∀ k, 2 ≤ k → t.txByte k = s.txByte k) ∧
    (0xFFFF < w → exec .buildRead s = .next { s with status := 0x86#8, errinfo := BitVec.ofNat 32 a })

/-- R75: `PARSE_READ`, its result and its two errors in their order. -/
def Obligations.ParseReadResult : Prop :=
  ∀ (s : State) (n : Nat), n = s.rxlen.toNat →
    (256 < n → exec .parseRead s = .next { s with status := 0x87#8, errinfo := 0x00000004#32 }) ∧
    (n < 2 → exec .parseRead s = .next { s with status := 0x84#8, errinfo := BitVec.ofNat 32 n }) ∧
    (2 ≤ n → n ≤ 256 → exec .parseRead s = .next
      { s with r := s.r.set 0 (BitVec.ofNat 64 (256 * (s.rxByte (n - 2)).toNat + (s.rxByte (n - 1)).toNat)),
               status := 0x80#8, errinfo := 0#32 })

/-- R76: `COMBINE_PAIR`, its result for a key of the table and its error for any other ordered pair. -/
def Obligations.CombinePairResult : Prop :=
  ∀ (s : State) (a1 a2 : Word), a1 = s.operand 0 16 → a2 = s.operand 1 16 →
    (∀ (m l x : ℚ), ((a1, a2), (m, l)) ∈ s.cfg.val.pairTable →
      x = ((s.a[3].toNat % 65536 : ℕ) : ℚ) * m + ((s.a[2].toNat / 256 % 256 : ℕ) : ℚ) * l / 256 →
      exec .combinePair s = .next
        { s with r := s.r.set 0 (BitVec.ofInt 64 ⌊x * 10 ^ 8⌋), status := 0x80#8, errinfo := 0#32 }) ∧
    ((∀ e ∈ s.cfg.val.pairTable, e.1 ≠ (a1, a2)) →
      exec .combinePair s = .next { s with status := 0x83#8, errinfo := BitVec.ofNat 32 (a1.toNat * 65536 + a2.toNat) })

/-- R77: the lookup fails closed. It completes exactly for the keys of the table, whatever the two raw
values; for any other pair no result register is written; `(0x0000, 0x0001)` is never a key. -/
def Obligations.PairLookupFailsClosed : Prop :=
  ∀ (s t : State), exec .combinePair s = .next t →
    (t.err = 0#4 ↔ ∃ e ∈ s.cfg.val.pairTable, e.1 = (s.operand 0 16, s.operand 1 16)) ∧
    (t.err ≠ 0#4 → t.err = 3#4 ∧ t.r = s.r) ∧
    (s.operand 0 16 = 0x0000#16 → s.operand 1 16 = 0x0001#16 → t.err = 3#4)

/-- R78: `SCALE_SINGLE` for a direct-scale address and for any other; it raises nothing. -/
def Obligations.ScaleSingleResult : Prop :=
  ∀ (s : State) (a : Word) (raw : Nat), a = s.operand 0 16 → raw = s.a[1].toNat % 65536 →
    (∀ m : ℚ, (a, m) ∈ s.cfg.val.directScale →
      exec .scaleSingle s = .next
        { s with r := (s.r.set 0 (BitVec.ofInt 64 ⌊(raw : ℚ) * m * 10 ^ 8⌋)).set 1 1#64,
                 status := 0x80#8, errinfo := 0#32 }) ∧
    ((∀ e ∈ s.cfg.val.directScale, e.1 ≠ a) →
      exec .scaleSingle s = .next
        { s with r := (s.r.set 0 (BitVec.ofNat 64 raw)).set 1 0#64, status := 0x80#8, errinfo := 0#32 })

/-- R79: `BUILD_WRITE`, its eight bytes and its error. -/
def Obligations.BuildWritePayload : Prop :=
  ∀ (s : State) (a v w : Nat), a = s.a[0].toNat % 65536 → v = s.a[1].toNat % 65536 →
    w = (if a = s.cfg.val.specialAddr.toNat then a + s.cfg.val.baseSpecial.toNat
         else a + s.cfg.val.baseDefault.toNat) →
    (w ≤ 0xFFFF → ∃ t, exec .buildWrite s = .next t ∧
      t = { s with txbuf := t.txbuf, txlen := 8#16, status := 0x80#8, errinfo := 0#32 } ∧
      t.txByte 0 = BitVec.ofNat 8 (v / 256) ∧ t.txByte 1 = BitVec.ofNat 8 v ∧
      s.cfg.val.writeSuffix = [t.txByte 2, t.txByte 3, t.txByte 4, t.txByte 5] ∧
      t.txByte 6 = BitVec.ofNat 8 (w / 256) ∧ t.txByte 7 = BitVec.ofNat 8 w ∧
      ∀ k, 8 ≤ k → t.txByte k = s.txByte k) ∧
    (0xFFFF < w → exec .buildWrite s = .next { s with status := 0x86#8, errinfo := BitVec.ofNat 32 a })

/-- R80: `TC16_ENCODE`, its result and its error. -/
def Obligations.Tc16EncodeResult : Prop :=
  ∀ (s : State) (v : ℤ), v = s.a[0].toInt →
    (-32768 ≤ v → v ≤ 32767 → exec .tc16Encode s = .next
      { s with r := s.r.set 0 (BitVec.ofInt 64 (v % 65536)), status := 0x80#8, errinfo := 0#32 }) ∧
    (v < -32768 ∨ 32767 < v →
      exec .tc16Encode s = .next { s with status := 0x81#8, errinfo := 0x00000003#32 })

/-- R82: write, then read, with the mock meter: at the source's bases every word written to an address
below 0x3000 comes back unconverted, if the address is no direct-scale one; for a direct-scale address
the scaled value comes back; and a peer that echoes what it is sent returns the wire address instead. -/
def Obligations.WriteThenReadRoundTrips : Prop :=
  ∀ (s : State) (store : MeterStore) (a v : Word) (echo : List Byte), s.cfg.val.AtDefaults →
    a.toNat < 0x3000 →
    ∃ t sent, writeRegister (fun _ => .answer echo) a v s = ⟨t, sent, .value ()⟩ ∧
      ((∀ e ∈ s.cfg.val.directScale, e.1 ≠ a) →
        (readSingleRegister (mockPeer (sent.foldl mockStore store)) a t).ended =
          .value (v.setWidth 64, false) ∧
        ∃ w : Word, w.toNat = (if a = 0x0070#16 then 0xE070 else a.toNat + 0xD000) ∧
          (readSingleRegister echoPeer a t).ended = .value (w.setWidth 64, false)) ∧
      ∀ m : ℚ, (a, m) ∈ s.cfg.val.directScale →
        (readSingleRegister (mockPeer (sent.foldl mockStore store)) a t).ended =
          .value (BitVec.ofInt 64 ⌊(v.toNat : ℚ) * m * 10 ^ 8⌋, true)

/-! ### 43_host_sequences.md -/

/-- R85, R91: an answer that never comes, or a send that fails, ends a sequence with `TransportError` at
once: nothing more is sent, no parse runs, so no result register and no byte of `RXBUF` changes. A second
answer that never comes ends `read_register_pair` with what the first round trip left (R87). -/
def Obligations.AbsentAnswerEndsTheSequence : Prop :=
  ∀ (s : State) (peer : Message → Exchange), (∀ m, peer m = .absent ∨ peer m = .sendFailed) →
    (∀ a : Word, wireSum s.cfg.val a ≤ 0xFFFF →
      EndsUnanswered s [⟨.mtRead, beBytes 2 (wireSum s.cfg.val a)⟩] (readSingleRegister peer a s) ∧
      (∀ (a2 : Word) (peer2 : Message → Exchange),
        EndsUnanswered s [⟨.mtRead, beBytes 2 (wireSum s.cfg.val a)⟩] (readRegisterPair peer peer2 a a2 s)) ∧
      ∀ v : Word,
        EndsUnanswered s
          [⟨.mtWrite, beBytes 2 v.toNat ++ s.cfg.val.writeSuffix ++ beBytes 2 (wireSum s.cfg.val a)⟩]
          (writeRegister peer a v s)) ∧
    EndsUnanswered s [⟨.ps, s.cfg.val.pollFrame⟩] (pollOutput peer s) ∧
    (∀ (xv xi : Reg64) (l : Byte) (t : State),
      startOp 0x10#8 (((s.setA 0 xv).setA 1 xi).setA 2 (l.setWidth 64)) = .next t → t.err = 0#4 →
      peer ⟨.ps, t.txBytes⟩ = .sendFailed →
      EndsUnanswered s [⟨.ps, t.txBytes⟩] (setOutput peer xv xi l s)) ∧
    ∀ (a1 a2 : Word) (p : List Byte) (b c : Byte) (run : SeqRun Reg64),
      wireSum s.cfg.val a1 ≤ 0xFFFF → wireSum s.cfg.val a2 ≤ 0xFFFF → p.length ≤ 254 →
      run = readRegisterPair (fun _ => .answer (p ++ [b, c])) peer a1 a2 s →
      run.ended = .transportError ∧
      run.sent =
        [⟨.mtRead, beBytes 2 (wireSum s.cfg.val a1)⟩, ⟨.mtRead, beBytes 2 (wireSum s.cfg.val a2)⟩] ∧
      run.state.r = s.r.set 0 (BitVec.ofNat 64 (256 * b.toNat + c.toNat)) ∧
      run.state.rxlen.toNat = p.length + 2 ∧
      ∀ k < p.length + 2, (p ++ [b, c])[k]? = some (run.state.rxByte k)

/-- R86 to R89, R91: a build that fails ends its sequence with the block's error and nothing is sent, so
no stale frame goes out (R111); the second build of `read_register_pair` ends it with only the first
request sent. -/
def Obligations.FailedBuildSendsNothing : Prop :=
  ∀ (s : State) (peer peer2 : Message → Exchange),
    (∀ a : Word, 0xFFFF < wireSum s.cfg.val a →
      ((readSingleRegister peer a s).ended = .blockError 6#4 ∧ (readSingleRegister peer a s).sent = []) ∧
      (∀ a2 : Word, (readRegisterPair peer peer2 a a2 s).ended = .blockError 6#4 ∧
        (readRegisterPair peer peer2 a a2 s).sent = []) ∧
      ∀ v : Word, (writeRegister peer a v s).ended = .blockError 6#4 ∧ (writeRegister peer a v s).sent = []) ∧
    (∀ (a1 a2 : Word) (p : List Byte) (b c : Byte),
      wireSum s.cfg.val a1 ≤ 0xFFFF → 0xFFFF < wireSum s.cfg.val a2 → p.length ≤ 254 →
      (readRegisterPair (fun _ => .answer (p ++ [b, c])) peer2 a1 a2 s).ended = .blockError 6#4 ∧
      (readRegisterPair (fun _ => .answer (p ++ [b, c])) peer2 a1 a2 s).sent =
        [⟨.mtRead, beBytes 2 (wireSum s.cfg.val a1)⟩]) ∧
    (∀ (xv xi : Reg64) (l : Byte) (t : State),
      startOp 0x10#8 (((s.setA 0 xv).setA 1 xi).setA 2 (l.setWidth 64)) = .next t → t.err ≠ 0#4 →
      setOutput peer xv xi l s = ⟨t, [], .blockError 1#4⟩ ∧ t.err = 1#4 ∧
      t.txbuf = s.txbuf ∧ t.txlen = s.txlen) ∧
    ∀ (xv xi : Reg64) (l : Byte), xv.toInt < 0 →
      (setOutput peer xv xi l s).ended = .blockError 1#4 ∧ (setOutput peer xv xi l s).sent = []

/-- R87: two complete round trips, `addr1` first, then the combination by the pair's scales; an unknown
pair fails after the reads. -/
def Obligations.ReadRegisterPairCombines : Prop :=
  ∀ (s : State) (a1 a2 : Word) (p1 p2 : List Byte) (b1 c1 b2 c2 : Byte),
    wireSum s.cfg.val a1 ≤ 0xFFFF → wireSum s.cfg.val a2 ≤ 0xFFFF →
    p1.length ≤ 254 → p2.length ≤ 254 →
    (readRegisterPair (fun _ => .answer (p1 ++ [b1, c1])) (fun _ => .answer (p2 ++ [b2, c2])) a1 a2 s).sent =
      [⟨.mtRead, beBytes 2 (wireSum s.cfg.val a1)⟩, ⟨.mtRead, beBytes 2 (wireSum s.cfg.val a2)⟩] ∧
    (∀ m l : ℚ, ((a1, a2), (m, l)) ∈ s.cfg.val.pairTable →
      (readRegisterPair (fun _ => .answer (p1 ++ [b1, c1])) (fun _ => .answer (p2 ++ [b2, c2])) a1 a2
          s).ended =
        .value (BitVec.ofInt 64
          ⌊(((256 * b2.toNat + c2.toNat : ℕ) : ℚ) * m + (b1.toNat : ℚ) * l / 256) * 10 ^ 8⌋)) ∧
    ((∀ e ∈ s.cfg.val.pairTable, e.1 ≠ (a1, a2)) →
      (readRegisterPair (fun _ => .answer (p1 ++ [b1, c1])) (fun _ => .answer (p2 ++ [b2, c2])) a1 a2
        s).ended = .blockError 3#4)

/-- R89, R90: `set_output` sends the frame it built and expects nothing; `poll_output` sends the eight
poll bytes and no more, whatever comes. An answer too short for the fields ends it with `ShortFrame`; one
that is long enough gives the twelve results of `PARSE_OUTPUT_RESPONSE` on those bytes. -/
def Obligations.PowerSupplySequences : Prop :=
  ∀ (s : State) (peer : Message → Exchange),
    (∀ (xv xi : Reg64) (l : Byte) (t : State),
      startOp 0x10#8 (((s.setA 0 xv).setA 1 xi).setA 2 (l.setWidth 64)) = .next t → t.err = 0#4 →
      (setOutput peer xv xi l s).sent = [⟨.ps, t.txBytes⟩] ∧ t.txBytes.length = s.cfg.val.setLen ∧
      (peer ⟨.ps, t.txBytes⟩ ≠ .sendFailed → (setOutput peer xv xi l s).ended = .value ())) ∧
    (pollOutput peer s).sent = [⟨.ps, s.cfg.val.pollFrame⟩] ∧
    ∀ p : List Byte, peer ⟨.ps, s.cfg.val.pollFrame⟩ = .answer p →
      (p.length < s.cfg.val.respMinLen → (pollOutput peer s).ended = .blockError 2#4) ∧
      ∀ u w : State, s.cfg.val.respMinLen ≤ p.length → p.length ≤ 256 → u.cfg = s.cfg →
        u.rxlen.toNat = p.length → (∀ k < p.length, p[k]? = some (u.rxByte k)) →
        exec .parseOutputResponse u = .next w →
        (pollOutput peer s).ended = .value w.r

/-! ### 60_exceptions.md -/

/-- R92, R96: the code and the `ERRINFO` layout of every error that `raise` records, and of none. -/
def Obligations.ErrorCodesAndInformation : Prop :=
  ∀ s : State, (s.complete.err = 0#4 ∧ s.complete.errinfo = 0#32) ∧
    (∀ v w : Word, (s.raise (.shortFrame v w)).err = 2#4 ∧
      (s.raise (.shortFrame v w)).errinfo.toNat = v.toNat * 65536 + w.toNat) ∧
    (∀ v w : Word, (s.raise (.unknownRegisterPair v w)).err = 3#4 ∧
      (s.raise (.unknownRegisterPair v w)).errinfo.toNat = v.toNat * 65536 + w.toNat) ∧
    (∀ v : Word, (s.raise (.incompleteResponse v)).err = 4#4 ∧
      (s.raise (.incompleteResponse v)).errinfo.toNat = v.toNat) ∧
    (∀ c : Byte, (s.raise (.illegalOp c)).err = 5#4 ∧ (s.raise (.illegalOp c)).errinfo.toNat = c.toNat) ∧
    (∀ v : Word, (s.raise (.addrOverflow v)).err = 6#4 ∧
      (s.raise (.addrOverflow v)).errinfo.toNat = v.toNat) ∧
    (∀ o : OperandIx, (s.raise (.badOperand o)).err = 7#4 ∧
      (s.raise (.badOperand o)).errinfo.toNat = (operandIndex o).toNat) ∧
    (∀ (o : OperandIx) (c : RangeCause), (s.raise (.outOfRange o c)).err = 1#4 ∧
      (s.raise (.outOfRange o c)).errinfo.toNat =
        (operandIndex o).toNat * 256 + (causeNumber c).toNat) ∧
    operandIndex .a0 = 0#8 ∧ operandIndex .a1 = 1#8 ∧ operandIndex .a2 = 2#8 ∧ operandIndex .a3 = 3#8 ∧
    operandIndex .rxlen = 4#8 ∧ causeNumber .negative = 1#8 ∧ causeNumber .above16Bits = 2#8 ∧
    causeNumber .outsideSigned16 = 3#8

/-- R95: an error writes its code, `DONE` and its information into `STATUS` and `ERRINFO`, and nothing
else: no result register, no byte of a buffer, no length, no operand register, not `OP`. -/
def Obligations.ErrorsArePrecise : Prop :=
  ∀ (i : Instr) (s t : State), exec i s = .next t → t.err ≠ 0#4 →
    (∃ e : OpError, t.err = errorCode e ∧ t.errinfo = errorInfo e) ∧ t.done = true ∧
    t = { s with status := t.status, errinfo := t.errinfo }

/-- R98: nothing stops the block. While every host access names something that exists, every run goes on,
through any number of errors, to any length. The premise is there because the model stops at an access
that names nothing (notes/assumptions/6.md), and a run longer than the pending accesses goes on because a
step with none pending changes nothing (notes/assumptions/2.md): both are the model's choices. -/
def Obligations.NothingStopsTheBlock : Prop :=
  ∀ s : State, (∀ x ∈ s.host, x.wellFormed = true) → s.NeverStops

/-- R104: an absent response, presented as `RXLEN = 0`, never turns into a measurement. -/
def Obligations.AbsentInputIsAnError : Prop :=
  ∀ s : State, s.rxlen = 0#16 →
    0 < s.cfg.val.respMinLen ∧
    exec .parseOutputResponse s = .next
      { s with status := 0x82#8, errinfo := BitVec.ofNat 32 s.cfg.val.respMinLen } ∧
    exec .parseRead s = .next { s with status := 0x84#8, errinfo := 0#32 }

/-! ### The legal states -/

/-- The state after reset is legal. -/
def Obligations.ResetStateIsLegal : Prop := State.reset.Inv

/-- Every step from a legal state leaves a legal one: both buffers in canonical form, `TXLEN` the length
of a built format with every byte below it written, `STATUS` one that the operation in `OP` can end with,
and nothing written by the block before `DONE` is set. -/
def Obligations.EveryStepKeepsStatesLegal : Prop :=
  ∀ s t : State, s.Inv → step s = .next t → t.Inv

/-! ### The host's reads -/

/-- R13: a host read returns what the register, the length or the buffer byte holds, as a number; that a
read is 64 bits wide is the model's choice (notes/assumptions/14.md). -/
def Obligations.HostReadsReturnWhatIsHeld : Prop :=
  ∀ s : State,
    (∀ k : Fin 4, s.hostRead (.a k) = some s.a[k]) ∧ (∀ k : Fin 12, s.hostRead (.r k) = some s.r[k]) ∧
    (s.hostRead .op).map BitVec.toNat = some s.op.toNat ∧
    (s.hostRead .status).map BitVec.toNat = some s.status.toNat ∧
    (s.hostRead .errinfo).map BitVec.toNat = some s.errinfo.toNat ∧
    (s.hostRead .txlen).map BitVec.toNat = some s.txlen.toNat ∧
    (s.hostRead .rxlen).map BitVec.toNat = some s.rxlen.toNat ∧
    ∀ i < 256, (s.hostRead (.tx i)).map BitVec.toNat = some (s.txByte i).toNat ∧
      (s.hostRead (.rx i)).map BitVec.toNat = some (s.rxByte i).toNat
end

