-- ==== Sys2Proof/Laws/State.lean ====
section
/-!
SUPPORT. One lemma per field of State for each update of it, so that no proof unfolds a record update.
-/

namespace Sys2Proof.Machine

variable (s : State)

@[simp] theorem State.setR_cfg (k : Fin 12) (v : Reg64) : (s.setR k v).cfg = s.cfg := rfl
@[simp] theorem State.setR_a (k : Fin 12) (v : Reg64) : (s.setR k v).a = s.a := rfl
@[simp] theorem State.setR_r (k : Fin 12) (v : Reg64) : (s.setR k v).r = s.r.set k v := rfl
@[simp] theorem State.setR_op (k : Fin 12) (v : Reg64) : (s.setR k v).op = s.op := rfl
@[simp] theorem State.setR_status (k : Fin 12) (v : Reg64) : (s.setR k v).status = s.status := rfl
@[simp] theorem State.setR_errinfo (k : Fin 12) (v : Reg64) : (s.setR k v).errinfo = s.errinfo := rfl
@[simp] theorem State.setR_txbuf (k : Fin 12) (v : Reg64) : (s.setR k v).txbuf = s.txbuf := rfl
@[simp] theorem State.setR_txlen (k : Fin 12) (v : Reg64) : (s.setR k v).txlen = s.txlen := rfl
@[simp] theorem State.setR_rxbuf (k : Fin 12) (v : Reg64) : (s.setR k v).rxbuf = s.rxbuf := rfl
@[simp] theorem State.setR_rxlen (k : Fin 12) (v : Reg64) : (s.setR k v).rxlen = s.rxlen := rfl
@[simp] theorem State.setR_epoch (k : Fin 12) (v : Reg64) : (s.setR k v).epoch = s.epoch := rfl
@[simp] theorem State.setR_host (k : Fin 12) (v : Reg64) : (s.setR k v).host = s.host := rfl

@[simp] theorem State.send_cfg (bytes : List Byte) : (s.send bytes).cfg = s.cfg := rfl
@[simp] theorem State.send_a (bytes : List Byte) : (s.send bytes).a = s.a := rfl
@[simp] theorem State.send_r (bytes : List Byte) : (s.send bytes).r = s.r := rfl
@[simp] theorem State.send_op (bytes : List Byte) : (s.send bytes).op = s.op := rfl
@[simp] theorem State.send_status (bytes : List Byte) : (s.send bytes).status = s.status := rfl
@[simp] theorem State.send_errinfo (bytes : List Byte) : (s.send bytes).errinfo = s.errinfo := rfl
@[simp] theorem State.send_txbuf (bytes : List Byte) : (s.send bytes).txbuf = Memory.writeBytes s.txbuf 0 bytes := rfl
@[simp] theorem State.send_txlen (bytes : List Byte) : (s.send bytes).txlen = BitVec.ofNat 16 bytes.length := rfl
@[simp] theorem State.send_rxbuf (bytes : List Byte) : (s.send bytes).rxbuf = s.rxbuf := rfl
@[simp] theorem State.send_rxlen (bytes : List Byte) : (s.send bytes).rxlen = s.rxlen := rfl
@[simp] theorem State.send_epoch (bytes : List Byte) : (s.send bytes).epoch = s.epoch := rfl
@[simp] theorem State.send_host (bytes : List Byte) : (s.send bytes).host = s.host := rfl

@[simp] theorem State.complete_cfg : (s.complete).cfg = s.cfg := rfl
@[simp] theorem State.complete_a : (s.complete).a = s.a := rfl
@[simp] theorem State.complete_r : (s.complete).r = s.r := rfl
@[simp] theorem State.complete_op : (s.complete).op = s.op := rfl
@[simp] theorem State.complete_status : (s.complete).status = statusWord 0#4 := rfl
@[simp] theorem State.complete_errinfo : (s.complete).errinfo = 0#32 := rfl
@[simp] theorem State.complete_txbuf : (s.complete).txbuf = s.txbuf := rfl
@[simp] theorem State.complete_txlen : (s.complete).txlen = s.txlen := rfl
@[simp] theorem State.complete_rxbuf : (s.complete).rxbuf = s.rxbuf := rfl
@[simp] theorem State.complete_rxlen : (s.complete).rxlen = s.rxlen := rfl
@[simp] theorem State.complete_epoch : (s.complete).epoch = s.epoch := rfl
@[simp] theorem State.complete_host : (s.complete).host = s.host := rfl

@[simp] theorem State.raise_cfg (e : OpError) : (s.raise e).cfg = s.cfg := rfl
@[simp] theorem State.raise_a (e : OpError) : (s.raise e).a = s.a := rfl
@[simp] theorem State.raise_r (e : OpError) : (s.raise e).r = s.r := rfl
@[simp] theorem State.raise_op (e : OpError) : (s.raise e).op = s.op := rfl
@[simp] theorem State.raise_status (e : OpError) : (s.raise e).status = statusWord (errorCode e) := rfl
@[simp] theorem State.raise_errinfo (e : OpError) : (s.raise e).errinfo = errorInfo e := rfl
@[simp] theorem State.raise_txbuf (e : OpError) : (s.raise e).txbuf = s.txbuf := rfl
@[simp] theorem State.raise_txlen (e : OpError) : (s.raise e).txlen = s.txlen := rfl
@[simp] theorem State.raise_rxbuf (e : OpError) : (s.raise e).rxbuf = s.rxbuf := rfl
@[simp] theorem State.raise_rxlen (e : OpError) : (s.raise e).rxlen = s.rxlen := rfl
@[simp] theorem State.raise_epoch (e : OpError) : (s.raise e).epoch = s.epoch := rfl
@[simp] theorem State.raise_host (e : OpError) : (s.raise e).host = s.host := rfl

@[simp] theorem State.setA_cfg (k : Fin 4) (v : Reg64) : (s.setA k v).cfg = s.cfg := rfl
@[simp] theorem State.setA_a (k : Fin 4) (v : Reg64) : (s.setA k v).a = s.a.set k v := rfl
@[simp] theorem State.setA_r (k : Fin 4) (v : Reg64) : (s.setA k v).r = s.r := rfl
@[simp] theorem State.setA_op (k : Fin 4) (v : Reg64) : (s.setA k v).op = s.op := rfl
@[simp] theorem State.setA_status (k : Fin 4) (v : Reg64) : (s.setA k v).status = s.status := rfl
@[simp] theorem State.setA_errinfo (k : Fin 4) (v : Reg64) : (s.setA k v).errinfo = s.errinfo := rfl
@[simp] theorem State.setA_txbuf (k : Fin 4) (v : Reg64) : (s.setA k v).txbuf = s.txbuf := rfl
@[simp] theorem State.setA_txlen (k : Fin 4) (v : Reg64) : (s.setA k v).txlen = s.txlen := rfl
@[simp] theorem State.setA_rxbuf (k : Fin 4) (v : Reg64) : (s.setA k v).rxbuf = s.rxbuf := rfl
@[simp] theorem State.setA_rxlen (k : Fin 4) (v : Reg64) : (s.setA k v).rxlen = s.rxlen := rfl
@[simp] theorem State.setA_epoch (k : Fin 4) (v : Reg64) : (s.setA k v).epoch = s.epoch := rfl
@[simp] theorem State.setA_host (k : Fin 4) (v : Reg64) : (s.setA k v).host = s.host := rfl

@[simp] theorem State.presentRx_cfg (bytes : List Byte) : (s.presentRx bytes).cfg = s.cfg := rfl
@[simp] theorem State.presentRx_a (bytes : List Byte) : (s.presentRx bytes).a = s.a := rfl
@[simp] theorem State.presentRx_r (bytes : List Byte) : (s.presentRx bytes).r = s.r := rfl
@[simp] theorem State.presentRx_op (bytes : List Byte) : (s.presentRx bytes).op = s.op := rfl
@[simp] theorem State.presentRx_status (bytes : List Byte) : (s.presentRx bytes).status = s.status := rfl
@[simp] theorem State.presentRx_errinfo (bytes : List Byte) : (s.presentRx bytes).errinfo = s.errinfo := rfl
@[simp] theorem State.presentRx_txbuf (bytes : List Byte) : (s.presentRx bytes).txbuf = s.txbuf := rfl
@[simp] theorem State.presentRx_txlen (bytes : List Byte) : (s.presentRx bytes).txlen = s.txlen := rfl
@[simp] theorem State.presentRx_rxbuf (bytes : List Byte) : (s.presentRx bytes).rxbuf = Memory.writeBytes s.rxbuf 0 bytes := rfl
@[simp] theorem State.presentRx_rxlen (bytes : List Byte) : (s.presentRx bytes).rxlen = BitVec.ofNat 16 bytes.length := rfl
@[simp] theorem State.presentRx_epoch (bytes : List Byte) : (s.presentRx bytes).epoch = s.epoch := rfl
@[simp] theorem State.presentRx_host (bytes : List Byte) : (s.presentRx bytes).host = s.host := rfl

@[simp] theorem State.applyReset_cfg : (s.applyReset).cfg = s.cfg := rfl
@[simp] theorem State.applyReset_a : (s.applyReset).a = Vector.replicate 4 0#64 := rfl
@[simp] theorem State.applyReset_r : (s.applyReset).r = Vector.replicate 12 0#64 := rfl
@[simp] theorem State.applyReset_op : (s.applyReset).op = 0#8 := rfl
@[simp] theorem State.applyReset_status : (s.applyReset).status = 0#8 := rfl
@[simp] theorem State.applyReset_errinfo : (s.applyReset).errinfo = 0#32 := rfl
@[simp] theorem State.applyReset_txbuf : (s.applyReset).txbuf = [] := rfl
@[simp] theorem State.applyReset_txlen : (s.applyReset).txlen = 0#16 := rfl
@[simp] theorem State.applyReset_rxbuf : (s.applyReset).rxbuf = [] := rfl
@[simp] theorem State.applyReset_rxlen : (s.applyReset).rxlen = 0#16 := rfl
@[simp] theorem State.applyReset_epoch : (s.applyReset).epoch = s.epoch + 1 := rfl
@[simp] theorem State.applyReset_host : (s.applyReset).host = s.host := rfl

@[simp] theorem State.withFetchWord_host (nbits w : Nat) :
    (s.withFetchWord nbits w).host = .writeOp (BitVec.ofNat 8 w) :: s.host := rfl

/-! The accessors of `STATUS` and of the buffers look at one field, or two. -/

theorem State.txByte_congr {s t : State} (hb : s.txbuf = t.txbuf) (he : s.epoch = t.epoch) (i : Nat) :
    s.txByte i = t.txByte i := by simp [State.txByte, hb, he]

theorem State.rxByte_congr {s t : State} (hb : s.rxbuf = t.rxbuf) (he : s.epoch = t.epoch) (i : Nat) :
    s.rxByte i = t.rxByte i := by simp [State.rxByte, hb, he]

end Sys2Proof.Machine
end

