-- ==== Sys2Proof/Laws/Memory.lean ====
section
/-!
SUPPORT. The laws of a byte buffer: a read after a write, and the canonical form every write keeps.
-/

namespace Sys2Proof.Machine

@[simp] theorem Memory.find_write_same (m : Memory) (i : Nat) (b : Byte) :
    Memory.find (Memory.write m i b) i = some b := by
  induction m with
  | nil => simp [Memory.write, Memory.find]
  | cons e rest ih =>
    obtain ⟨j, c⟩ := e
    by_cases hlt : i < j
    · simp [Memory.write, hlt, Memory.find]
    · by_cases heq : i = j
      · simp [Memory.write, heq, Memory.find]
      · simp [Memory.write, hlt, heq, Memory.find, ih]

theorem Memory.find_write_other (m : Memory) {i j : Nat} (h : j ≠ i) (b : Byte) :
    Memory.find (Memory.write m i b) j = Memory.find m j := by
  induction m with
  | nil => simp [Memory.write, Memory.find, h]
  | cons e rest ih =>
    obtain ⟨k, c⟩ := e
    by_cases hlt : i < k
    · simp [Memory.write, hlt, Memory.find, h]
    · by_cases heq : i = k
      · subst heq
        simp [Memory.write, Memory.find, h]
      · by_cases hjk : j = k
        · simp [Memory.write, hlt, heq, Memory.find, hjk]
        · simp [Memory.write, hlt, heq, Memory.find, hjk, ih]

/-- What a buffer reads after bytes were written at `off`: the bytes there, and the old ones elsewhere. -/
theorem Memory.find_writeBytes (m : Memory) (off : Nat) (bytes : List Byte) (j : Nat) :
    Memory.find (Memory.writeBytes m off bytes) j =
      if h : off ≤ j ∧ j - off < bytes.length then some bytes[j - off] else Memory.find m j := by
  induction bytes generalizing m off with
  | nil => simp [Memory.writeBytes]
  | cons b bs ih =>
    simp only [Memory.writeBytes, ih, List.length_cons]
    by_cases hj : j = off
    · subst hj
      simp
    · rw [Memory.find_write_other _ hj]
      by_cases hle : off + 1 ≤ j
      · obtain ⟨d, rfl⟩ : ∃ d, j = off + 1 + d := ⟨j - (off + 1), by omega⟩
        have e1 : off + 1 + d - (off + 1) = d := by omega
        have e2 : off + 1 + d - off = d + 1 := by omega
        simp [e1, e2, hle, show off ≤ off + 1 + d by omega]
      · have : ¬ off ≤ j := by omega
        simp [hle, this]

/-- Every index that is listed after a write was listed before, or is the one written. -/
theorem Memory.mem_write {m : Memory} {i : Nat} {b : Byte} {x : Host.Cell} (h : x ∈ Memory.write m i b) :
    x = (i, b) ∨ x ∈ m := by
  induction m with
  | nil => simpa [Memory.write] using h
  | cons e rest ih =>
    obtain ⟨j, c⟩ := e
    by_cases hlt : i < j
    · simpa [Memory.write, hlt] using h
    · by_cases heq : i = j
      · rcases (by simpa [Memory.write, heq] using h : x = (j, b) ∨ x ∈ rest) with h | h
        · exact .inl (by simp [h, heq])
        · exact .inr (by simp [h])
      · rcases (by simpa [Memory.write, hlt, heq] using h : x = (j, c) ∨ x ∈ Memory.write rest i b) with h | h
        · exact .inr (by simp [h])
        · rcases ih h with h | h
          · exact .inl h
          · exact .inr (by simp [h])

/-- A write inside the buffer keeps the canonical form. -/
theorem Memory.wf_write {m : Memory} (hm : Memory.wf m) {i : Nat} (hi : i < Config.bufCap) (b : Byte) :
    Memory.wf (Memory.write m i b) := by
  refine ⟨?_, fun x hx => ?_⟩
  · obtain ⟨hp, -⟩ := hm
    induction m with
    | nil => simp [Memory.write]
    | cons e rest ih =>
      obtain ⟨j, c⟩ := e
      rw [List.pairwise_cons] at hp
      by_cases hlt : i < j
      · simp only [Memory.write, hlt, if_true, List.pairwise_cons]
        refine ⟨fun x hx => ?_, hp.1, hp.2⟩
        rcases List.mem_cons.1 hx with rfl | hx
        · exact hlt
        · exact lt_trans hlt (hp.1 x hx)
      · by_cases heq : i = j
        · subst heq
          simpa [Memory.write] using hp
        · simp only [Memory.write, hlt, heq, if_false, List.pairwise_cons]
          refine ⟨fun x hx => ?_, ih hp.2⟩
          rcases Memory.mem_write hx with rfl | hx
          · show j < i
            omega
          · exact hp.1 x hx
  · rcases Memory.mem_write hx with rfl | hx
    · exact hi
    · exact hm.2 x hx

/-- Bytes written inside the buffer keep the canonical form. -/
theorem Memory.wf_writeBytes {m : Memory} (hm : Memory.wf m) {off : Nat} {bytes : List Byte}
    (h : off + bytes.length ≤ Config.bufCap) : Memory.wf (Memory.writeBytes m off bytes) := by
  induction bytes generalizing m off with
  | nil => exact hm
  | cons b bs ih =>
    simp only [List.length_cons] at h
    exact ih (Memory.wf_write hm (by omega) b) (by omega)

theorem Memory.wf_nil : Memory.wf [] := by simp [Memory.wf]

/-- A buffer byte after a build (R18): the frame's byte below its length, the old byte above. -/
theorem State.txByte_send (s : State) (bytes : List Byte) (j : Nat) :
    (s.send bytes).txByte j = if h : j < bytes.length then bytes[j] else s.txByte j := by
  simp only [State.txByte, Memory.read, State.send_txbuf, State.send_epoch, Memory.find_writeBytes,
    Nat.zero_le, true_and, Nat.sub_zero]
  split <;> rfl

/-- A receive-buffer byte after an answer is presented (R86 step 4). -/
theorem State.rxByte_presentRx (s : State) (bytes : List Byte) (j : Nat) :
    (s.presentRx bytes).rxByte j = if h : j < bytes.length then bytes[j] else s.rxByte j := by
  simp only [State.rxByte, Memory.read, State.presentRx_rxbuf, State.presentRx_epoch, Memory.find_writeBytes,
    Nat.zero_le, true_and, Nat.sub_zero]
  split <;> rfl

end Sys2Proof.Machine
end

