-- ==== Sys2Proof/Laws/Numeric.lean ====
section
/-!
SUPPORT. The laws of the big-endian integers (00_scope.md R4, R5) and of the `PHYS` format (R7, R8).
-/

namespace Sys2Proof.Machine

@[simp] theorem beBytes_length (n v : Nat) : (beBytes n v).length = n := by
  induction n with
  | zero => rfl
  | succ n ih => simp [beBytes, ih]

theorem beBytes_two (v : Nat) : beBytes 2 v = [BitVec.ofNat 8 (v / 256), BitVec.ofNat 8 v] := by
  simp [beBytes]

theorem beUint_lt (bs : List Byte) : beUint bs < 256 ^ bs.length := by
  induction bs with
  | nil => simp [beUint]
  | cons b bs ih =>
    have hb : b.toNat ≤ 255 := by have := b.isLt; omega
    calc beUint (b :: bs) = b.toNat * 256 ^ bs.length + beUint bs := rfl
      _ < b.toNat * 256 ^ bs.length + 256 ^ bs.length := by omega
      _ ≤ 255 * 256 ^ bs.length + 256 ^ bs.length := by gcongr
      _ = 256 ^ (b :: bs).length := by rw [List.length_cons, pow_succ]; ring

theorem beUint_append (xs ys : List Byte) :
    beUint (xs ++ ys) = beUint xs * 256 ^ ys.length + beUint ys := by
  induction xs with
  | nil => simp [beUint]
  | cons x xs ih =>
    simp only [List.cons_append, beUint, ih, List.length_append, pow_add]
    ring

theorem beUint_pair (b c : Byte) : beUint [b, c] = 256 * b.toNat + c.toNat := by
  simp [beUint]; ring

/-- A quantity whose units fit 64 signed bits is written to its register without wrapping. -/
theorem toInt_physBits {x : ℚ} (hlo : -(2 ^ 63) ≤ quantise x) (hhi : quantise x < 2 ^ 63) :
    (physBits x).toInt = quantise x := by
  rw [physBits, BitVec.toInt_ofInt]
  exact Int.bmod_eq_of_le (by norm_num; omega) (by norm_num; omega)

/-- Bytes and words of an unsigned value in the two's-complement spelling the statements use. -/
theorem ofInt_natCast (n v : Nat) : BitVec.ofInt n (v : Int) = BitVec.ofNat n v := by
  simp

end Sys2Proof.Machine
end

