-- ==== Sys2Proof/Laws/Config.lean ====
section
/-!
SUPPORT. What the well-formedness of a configuration (10_state.md R24) gives the operations: every built
format has its length, and it fits the transmit buffer (30_encoding.md R54).
-/

namespace Sys2Proof

/-- R24 clause by clause, from the one Boolean. -/
theorem Config.Built.clauses (c : Config.Built) :
    c.val.frameFits = true ∧ (c.val.lengthsRight = true ∧ c.val.layoutStands = true) ∧
    c.val.responseFits = true ∧
    c.val.unityIsZero = true ∧ c.val.zeroOneIsNoPair = true ∧ c.val.scalesFit = true ∧
    c.val.bandsProper = true ∧ c.val.divisorsNonzero = true ∧ c.val.tablesAreMaps = true := by
  have h := c.ok
  simp only [Config.wellFormed, Bool.and_eq_true] at h
  tauto

/-- The lengths the rules write as numbers (R22, R24, R47, R51 to R53). -/
theorem Config.Built.layout (c : Config.Built) :
    c.val.preambleLen = 5 ∧ c.val.frameIdLen = 1 ∧ c.val.wordLen = 2 ∧ c.val.nPhase = 3 ∧
    c.val.trailerLen = 2 ∧ c.val.pollLen = 8 ∧ c.val.minHexDigits = 4 := by
  have h := c.clauses.2.1.2
  simp only [Config.layoutStands, Bool.and_eq_true, beq_iff_eq] at h
  tauto

theorem Config.Built.setLen_le (c : Config.Built) : c.val.setLen ≤ 256 := by
  exact of_decide_eq_true c.clauses.1

theorem Config.Built.lengths (c : Config.Built) :
    c.val.preamble.length = 5 ∧ c.val.frameId.length = 1 ∧ c.val.cmd.length = c.val.cmdLen ∧
    c.val.tail.length = c.val.tailLen ∧ c.val.trailerConst.length = 2 ∧
    (∀ e ∈ c.val.trailerTable, e.2.length = 2) ∧ c.val.pollFrame.length = 8 ∧
    c.val.writeSuffix.length = 4 := by
  have h := c.clauses.2.1.1
  obtain ⟨e1, e2, -, -, e5, e6, -⟩ := c.layout
  simp only [Config.lengthsRight, Bool.and_eq_true, beq_iff_eq, List.all_eq_true, e1, e2, e5, e6] at h
  tauto

/-- R24 (c): the response's fields. -/
theorem Config.Built.response (c : Config.Built) :
    (1 ≤ c.val.respWV ∧ c.val.respWV ≤ 4) ∧ (1 ≤ c.val.respWI ∧ c.val.respWI ≤ 4) ∧
    (1 ≤ c.val.respWPf ∧ c.val.respWPf ≤ 4) ∧ c.val.respMinLen ≤ 256 := by
  have h := c.clauses.2.2.1
  simp only [Config.responseFits, widthOk, Bool.and_eq_true, decide_eq_true_eq] at h
  exact ⟨h.1.1.1, h.1.1.2, h.1.2, h.2⟩

/-- R24 (f): the tables' `PHYS` results fit 64 bits. -/
theorem Config.Built.scales (c : Config.Built) :
    (∀ e ∈ c.val.pairTable, |65535 * e.2.1| + |255 * e.2.2 / 256| < 9223372036854775808 / 100000000) ∧
    ∀ e ∈ c.val.directScale, |65535 * e.2| < 9223372036854775808 / 100000000 := by
  have h := c.clauses.2.2.2.2.2.1
  simp only [Config.scalesFit, Bool.and_eq_true, List.all_eq_true, decide_eq_true_eq] at h
  exact h

/-- R61, R65: no divisor is zero. -/
theorem Config.Built.divisors (c : Config.Built) :
    c.val.divV ≠ 0 ∧ c.val.divI1 ≠ 0 ∧ c.val.divI2 ≠ 0 ∧
    ∀ k : Fin 4, c.val.scaleBuckets.factor[k] ≠ 0 := by
  have h := c.clauses.2.2.2.2.2.2.2.1
  simp only [Config.divisorsNonzero, Bool.and_eq_true, bne_iff_ne, Vector.all_eq_true] at h
  exact ⟨h.1.1.1, h.1.1.2, h.1.2, fun k => h.2 k k.isLt⟩

/-- The tables are maps: no key stands twice. -/
theorem Config.Built.maps (c : Config.Built) :
    (c.val.pairTable.map Prod.fst).Nodup ∧ (c.val.directScale.map Prod.fst).Nodup := by
  have h := c.clauses.2.2.2.2.2.2.2.2
  simp only [Config.tablesAreMaps, Bool.and_eq_true, decide_eq_true_eq] at h
  exact h.1

theorem Config.Built.setLen_eq (c : Config.Built) : c.val.setLen = 26 + c.val.cmdLen + c.val.tailLen := by
  obtain ⟨e1, e2, e3, e4, e5, -, -⟩ := c.layout
  simp [Config.setLen, e1, e2, e3, e4, e5]
  omega

namespace Machine

/-- A value found under a key stands in the table with that key. -/
theorem mem_of_lookup {α β : Type} [BEq α] [LawfulBEq α] {l : List (α × β)} {k : α} {v : β}
    (h : l.lookup k = some v) : (k, v) ∈ l := by
  induction l with
  | nil => simp at h
  | cons e rest ih =>
    obtain ⟨a, b⟩ := e
    by_cases hk : k = a
    · subst hk
      simp at h
      simp [h]
    · have : (k == a) = false := by simpa using hk
      simp [List.lookup, this] at h
      exact List.mem_cons_of_mem _ (ih h)

/-- In a table with no key twice, a listed entry is the one its key finds. -/
theorem lookup_of_mem {α β : Type} [BEq α] [LawfulBEq α] {l : List (α × β)} (hn : (l.map Prod.fst).Nodup)
    {k : α} {v : β} (h : (k, v) ∈ l) : l.lookup k = some v := by
  induction l with
  | nil => simp at h
  | cons e rest ih =>
    obtain ⟨a, b⟩ := e
    simp only [List.map_cons, List.nodup_cons] at hn
    rcases List.mem_cons.1 h with h | h
    · cases h
      simp
    · have hne : k ≠ a := fun hk => hn.1 (List.mem_map.2 ⟨(k, v), h, hk⟩)
      have : (k == a) = false := by simpa using hne
      simp [List.lookup, this, ih hn.2 h]

/-- A key that no entry has finds nothing. -/
theorem lookup_eq_none {α β : Type} [BEq α] [LawfulBEq α] {l : List (α × β)} {k : α} :
    l.lookup k = none ↔ ∀ e ∈ l, e.1 ≠ k := by
  induction l with
  | nil => simp
  | cons e rest ih =>
    obtain ⟨a, b⟩ := e
    by_cases hk : k = a
    · subst hk
      simp
    · have h1 : (k == a) = false := by simpa using hk
      have h2 : a ≠ k := fun h => hk h.symm
      simp [List.lookup, h1, ih, h2]

@[simp] theorem phaseWords_length (c : Config.Built) (w : Word) : (phaseWords c.val w).length = 6 := by
  obtain ⟨-, -, e3, e4, -⟩ := c.layout
  simp [phaseWords, e3, e4]

/-- `TRAILER_FN` (R50) is the function its table and its constant describe, and nothing else. -/
theorem trailerOf_eq_iff (c : Config.Built) (body t : List Byte) :
    trailerOf c.val body = t ↔ (body, t) ∈ c.val.trailerTable ∨
      t = c.val.trailerConst ∧ ∀ e ∈ c.val.trailerTable, e.1 ≠ body := by
  have hn : (c.val.trailerTable.map Prod.fst).Nodup := by
    have h := c.clauses.2.2.2.2.2.2.2.2
    simp only [Config.tablesAreMaps, Bool.and_eq_true, decide_eq_true_eq] at h
    exact h.2
  rw [← lookup_eq_none, trailerOf]
  constructor
  · rintro rfl
    cases h : c.val.trailerTable.lookup body with
    | none => exact .inr ⟨rfl, rfl⟩
    | some v => exact .inl (mem_of_lookup h)
  · rintro (h | ⟨rfl, h⟩)
    · rw [lookup_of_mem hn h]; rfl
    · rw [h]; rfl

theorem trailerOf_length (c : Config.Built) (body : List Byte) : (trailerOf c.val body).length = 2 := by
  obtain ⟨-, -, -, -, hconst, htable, -, -⟩ := c.lengths
  unfold trailerOf
  cases h : c.val.trailerTable.lookup body with
  | none => simpa using hconst
  | some t => exact htable _ (mem_of_lookup h)

theorem setOutputBody_length (c : Config.Built) (wv wi wp : Word) :
    (setOutputBody c.val wv wi wp).length + 2 = c.val.setLen := by
  obtain ⟨h1, h2, h3, h4, -, -, -, -⟩ := c.lengths
  simp [setOutputBody, h1, h2, h3, h4, c.setLen_eq]
  omega

theorem setOutputFrame_length (c : Config.Built) (wv wi wp : Word) :
    (setOutputFrame c.val wv wi wp).length = c.val.setLen := by
  rw [setOutputFrame, List.length_append, trailerOf_length, setOutputBody_length]

theorem readPayload_length (c : Config.Built) (w : Word) : (readPayload c.val w).length = 2 := by
  simp [readPayload, c.layout.2.2.1]

theorem writePayload_length (c : Config.Built) (v w : Word) : (writePayload c.val v w).length = 8 := by
  obtain ⟨-, -, -, -, -, -, -, h⟩ := c.lengths
  simp [writePayload, c.layout.2.2.1, h]

end Machine
end Sys2Proof
end

