-- ==== Sys2Proof/Laws/Exec.lean ====
section
/-!
SUPPORT. How an operation can end, said once: `finish`, and one inversion for `exec` that the proofs of
frames, of precise errors and of invariants cite instead of unfolding fourteen meanings.
-/

namespace Sys2Proof.Machine

@[simp] theorem State.finish_ok (s t : State) : s.finish (.ok t) = t.complete := rfl
@[simp] theorem State.finish_error (s : State) (e : OpError) : s.finish (.error e) = s.raise e := rfl

/-! ### The status word (R16) -/

theorem statusWord_fields : ∀ c : BitVec 4, (statusWord c).extractLsb' 0 4 = c ∧
    (statusWord c).extractLsb' 4 3 = 0#3 ∧ (statusWord c).getLsbD 7 = true := by decide

@[simp] theorem statusWord_none : statusWord 0#4 = 0x80#8 := by decide
@[simp] theorem statusWord_outOfRange : statusWord 1#4 = 0x81#8 := by decide
@[simp] theorem statusWord_shortFrame : statusWord 2#4 = 0x82#8 := by decide
@[simp] theorem statusWord_unknownRegisterPair : statusWord 3#4 = 0x83#8 := by decide
@[simp] theorem statusWord_incompleteResponse : statusWord 4#4 = 0x84#8 := by decide
@[simp] theorem statusWord_illegalOp : statusWord 5#4 = 0x85#8 := by decide
@[simp] theorem statusWord_addrOverflow : statusWord 6#4 = 0x86#8 := by decide
@[simp] theorem statusWord_badOperand : statusWord 7#4 = 0x87#8 := by decide

/-- The two ends of an operation as record updates (R16, R17, R95). -/
theorem State.complete_eq (s : State) : s.complete = { s with status := 0x80#8, errinfo := 0#32 } := by
  simp [State.complete]

theorem State.raise_eq (s : State) (e : OpError) :
    s.raise e = { s with status := statusWord (errorCode e), errinfo := errorInfo e } := rfl

@[simp] theorem State.err_complete (s : State) : s.complete.err = 0#4 := (statusWord_fields _).1
@[simp] theorem State.err_raise (s : State) (e : OpError) : (s.raise e).err = errorCode e :=
  (statusWord_fields _).1
@[simp] theorem State.done_complete (s : State) : s.complete.done = true := (statusWord_fields _).2.2
@[simp] theorem State.done_raise (s : State) (e : OpError) : (s.raise e).done = true :=
  (statusWord_fields _).2.2
@[simp] theorem State.statusReserved_complete (s : State) : s.complete.statusReserved = 0#3 :=
  (statusWord_fields _).2.1
@[simp] theorem State.statusReserved_raise (s : State) (e : OpError) : (s.raise e).statusReserved = 0#3 :=
  (statusWord_fields _).2.1

theorem errorCode_ne_zero (e : OpError) : errorCode e ≠ 0#4 := by cases e <;> simp [errorCode]

/-! ### What an operation writes before it ends -/

/-- What the results of a completed operation can be: result registers among its own, or a built format
in `TXBUF`. -/
inductive Writes (i : Instr) (s : State) : State → Prop where
  | registers (r : Vector Reg64 12) (h : ∀ k : Fin 12, k ∉ resultsOf i → r[k] = s.r[k])
      (hb : builds i = false) : Writes i s { s with r := r }
  | buffer (bytes : List Byte) (h : bytes.length ∈ [2, 8, s.cfg.val.setLen])
      (hb : builds i = true) : Writes i s (s.send bytes)

/-- How an operation can end: completed with results of its own, or at one of its errors. -/
inductive Ends (i : Instr) (s : State) : Except OpError State → Prop where
  | completed {u : State} (h : Writes i s u) : Ends i s (.ok u)
  | raised {e : OpError} (h : errorCode e ∈ errorsOf i) : Ends i s (.error e)

theorem scaleWord_error {cfg : Config} {operand : OperandIx} {x : ℚ} {e : OpError}
    (h : scaleWord cfg operand x = .error e) : errorCode e = 1#4 := by
  unfold scaleWord at h
  split at h
  · cases h; rfl
  · split at h <;> cases h
    rfl

theorem wireAddrOf_error {cfg : Config} {a : Word} {e : OpError} (h : wireAddrOf cfg a = .error e) :
    e = .addrOverflow a := by
  unfold wireAddrOf at h
  split at h <;> cases h
  rfl

/-- A result register set leaves the others as they were. -/
theorem setR_other (s : State) {j k : Fin 12} (h : j ≠ k) (v : Reg64) : (s.setR j v).r[k] = s.r[k] := by
  have : (j : Nat) ≠ k := fun e => h (Fin.ext e)
  simp [this]

theorem writes_setR {i : Instr} {s : State} {k : Fin 12} (hk : k ∈ resultsOf i) (hb : builds i = false)
    (v : Reg64) : Writes i s (s.setR k v) :=
  .registers _ (fun _ hj => setR_other s (by rintro rfl; exact hj hk) v) hb

theorem writes_setR_setR {i : Instr} {s : State} {j k : Fin 12} (hj : j ∈ resultsOf i)
    (hk : k ∈ resultsOf i) (hb : builds i = false) (v w : Reg64) :
    Writes i s ((s.setR j v).setR k w) :=
  .registers _ (fun _ hl =>
    (setR_other (s.setR j v) (by rintro rfl; exact hl hk) w).trans
      (setR_other s (by rintro rfl; exact hl hj) v)) hb

/-- What `exec` can do, whatever the operation: it answers a next state, in which the operation has
ended in one of its ways. -/
theorem exec_ends (i : Instr) (s : State) :
    ∃ r, Ends i s r ∧ exec i s = .next (s.finish r) := by
  cases i with
  | scaleToFixed =>
    refine ⟨_, ?_, rfl⟩
    cases h : scaleWord s.cfg.val .a0 (physVal s.a[0]) with
    | error e => exact .raised (by simp [scaleWord_error h, errorsOf])
    | ok v => exact .completed (writes_setR_setR (by decide) (by decide) rfl _ _)
  | fixedToScale =>
    refine ⟨_, ?_, rfl⟩
    cases divisorOfSelector (s.operand 1 3) with
    | none => exact .raised (by simp [errorCode, errorsOf])
    | some d => exact .completed (writes_setR (by decide) rfl _)
  | pfToCode => exact ⟨_, .completed (writes_setR (by decide) rfl _), rfl⟩
  | decodePf => exact ⟨_, .completed (writes_setR (by decide) rfl _), rfl⟩
  | buildSetOutput =>
    refine ⟨_, ?_, rfl⟩
    cases h : scaleWord s.cfg.val .a0 (physVal s.a[0]) with
    | error e => exact .raised (by simp [scaleWord_error h, errorsOf])
    | ok v =>
      cases h' : scaleWord s.cfg.val .a1 (physVal s.a[1]) with
      | error e => exact .raised (by simp [scaleWord_error h', errorsOf])
      | ok w => exact .completed (.buffer _ (by simp [setOutputFrame_length]) rfl)
  | buildPoll =>
    obtain ⟨-, -, -, -, -, -, h, -⟩ := s.cfg.lengths
    exact ⟨_, .completed (.buffer _ (by simp [h]) rfl), rfl⟩
  | parseOutputResponse =>
    refine ⟨_, ?_, rfl⟩
    split
    · exact .raised (by simp [errorCode, errorsOf])
    · split
      · exact .raised (by simp [errorCode, errorsOf])
      · exact .completed (.registers _ (fun k hk => absurd (by revert k; decide) hk) rfl)
  | wireAddr =>
    refine ⟨_, ?_, rfl⟩
    cases h : wireAddrOf s.cfg.val (s.operand 0 16) with
    | error e => exact .raised (by simp [wireAddrOf_error h, errorCode, errorsOf])
    | ok w => exact .completed (writes_setR (by decide) rfl _)
  | buildRead =>
    refine ⟨_, ?_, rfl⟩
    cases h : wireAddrOf s.cfg.val (s.operand 0 16) with
    | error e => exact .raised (by simp [wireAddrOf_error h, errorCode, errorsOf])
    | ok w => exact .completed (.buffer _ (by simp [readPayload_length]) rfl)
  | parseRead =>
    refine ⟨_, ?_, rfl⟩
    split
    · exact .raised (by simp [errorCode, errorsOf])
    · split
      · exact .raised (by simp [errorCode, errorsOf])
      · exact .completed (writes_setR (by decide) rfl _)
  | combinePair =>
    refine ⟨_, ?_, rfl⟩
    cases pairScales s.cfg.val (s.operand 0 16) (s.operand 1 16) with
    | none => exact .raised (by simp [errorCode, errorsOf])
    | some m => exact .completed (writes_setR (by decide) rfl _)
  | scaleSingle =>
    refine ⟨_, ?_, rfl⟩
    cases s.cfg.val.directScale.lookup (s.operand 0 16) with
    | none => exact .completed (writes_setR_setR (by decide) (by decide) rfl _ _)
    | some m => exact .completed (writes_setR_setR (by decide) (by decide) rfl _ _)
  | buildWrite =>
    refine ⟨_, ?_, rfl⟩
    cases h : wireAddrOf s.cfg.val (s.operand 0 16) with
    | error e => exact .raised (by simp [wireAddrOf_error h, errorCode, errorsOf])
    | ok w => exact .completed (.buffer _ (by simp [writePayload_length]) rfl)
  | tc16Encode =>
    refine ⟨_, ?_, rfl⟩
    split
    · exact .raised (by simp [errorCode, errorsOf])
    · exact .completed (writes_setR (by decide) rfl _)

end Sys2Proof.Machine
end

