-- ==== Sys2Proof/Laws/Operations.lean ====
section
/-!
SUPPORT. What each operation the meanings share can do, said once: scaling a quantity, forming a wire
address, naming a divisor, finding a band, and the bytes a build leaves.
-/

namespace Sys2Proof.Machine

/-- The three ends of scaling a quantity (R60), in the order of its tests. -/
theorem scaleWord_cases (cfg : Config) (operand : OperandIx) (x : ℚ) :
    (x < 0 ∧ scaleWord cfg operand x = .error (.outOfRange operand .negative)) ∨
    (0 ≤ x ∧ 65535 < roundS cfg.scaleRound (x * scaleOf cfg.scaleBuckets (classOf cfg.scaleBuckets x)) ∧
      scaleWord cfg operand x = .error (.outOfRange operand .above16Bits)) ∨
    (0 ≤ x ∧ roundS cfg.scaleRound (x * scaleOf cfg.scaleBuckets (classOf cfg.scaleBuckets x)) ≤ 65535 ∧
      scaleWord cfg operand x =
        .ok (BitVec.ofInt 16 (roundS cfg.scaleRound (x * scaleOf cfg.scaleBuckets (classOf cfg.scaleBuckets x))),
          classOf cfg.scaleBuckets x)) := by
  unfold scaleWord
  by_cases hx : x < 0
  · exact .inl ⟨hx, by simp [hx]⟩
  · have h0 : 0 ≤ x := not_lt.1 hx
    by_cases hn :
        65535 < roundS cfg.scaleRound (x * scaleOf cfg.scaleBuckets (classOf cfg.scaleBuckets x))
    · exact .inr (.inl ⟨h0, hn, by simp [hx, hn]⟩)
    · exact .inr (.inr ⟨h0, not_lt.1 hn, by simp [hx, hn]⟩)

/-- The two ends of forming a wire address (R35, R36). -/
theorem wireAddrOf_cases (cfg : Config) (a : Word) :
    (wireSum cfg a ≤ 0xFFFF ∧ wireAddrOf cfg a = .ok (BitVec.ofNat 16 (wireSum cfg a))) ∨
    (0xFFFF < wireSum cfg a ∧ wireAddrOf cfg a = .error (.addrOverflow a)) := by
  unfold wireAddrOf
  by_cases h : wireSum cfg a > 0xFFFF
  · exact .inr ⟨h, by simp [h]⟩
  · exact .inl ⟨not_lt.1 h, by simp [h]⟩

/-- What a selector names (R46). -/
theorem divisorOfSelector_eq (d : BitVec 3) :
    divisorOfSelector d =
      if h : d.toNat < 4 then some (.ofClass ⟨d.toNat, h⟩)
      else if d.toNat = 4 then some .voltage
      else if d.toNat = 5 then some .current
      else none := by
  revert d
  decide

/-- A label code outside R21's list names no label. -/
theorem labelOfCode_eq_none (l : Byte) : labelOfCode l = none ↔ 0x05 ≤ l.toNat ∧ l.toNat ≤ 0xFE := by
  revert l
  decide +kernel

/-- The first band that contains the value decides (R63). -/
theorem labelOfRaw_append {before after : List Band} {b : Band} {raw : Nat}
    (hbefore : ∀ b' ∈ before, ¬ (b'.lo ≤ raw ∧ raw ≤ b'.hi)) (hb : b.lo ≤ raw ∧ raw ≤ b.hi) :
    labelOfRaw (before ++ b :: after) raw = b.label := by
  induction before with
  | nil => simp [labelOfRaw, hb]
  | cons b' bs ih =>
    rw [List.cons_append, labelOfRaw, if_neg (hbefore b' (by simp))]
    exact ih fun x hx => hbefore x (by simp [hx])

/-- Outside all bands the label is `Unknown` (R63). -/
theorem labelOfRaw_outside {bands : List Band} {raw : Nat}
    (h : ∀ b ∈ bands, ¬ (b.lo ≤ raw ∧ raw ≤ b.hi)) : labelOfRaw bands raw = .unknown := by
  induction bands with
  | nil => rfl
  | cons b bs ih =>
    rw [labelOfRaw, if_neg (h b (by simp))]
    exact ih fun x hx => h x (by simp [hx])

/-- The bytes of a word sent for three phases (R47). -/
theorem phaseWords_eq (c : Config.Built) (w : Word) :
    phaseWords c.val w =
      [BitVec.ofNat 8 (w.toNat / 256), BitVec.ofNat 8 w.toNat, BitVec.ofNat 8 (w.toNat / 256),
       BitVec.ofNat 8 w.toNat, BitVec.ofNat 8 (w.toNat / 256), BitVec.ofNat 8 w.toNat] := by
  simp only [phaseWords, c.layout.2.2.1, c.layout.2.2.2.1, beBytes_two]
  simp [List.replicate]

/-- The end of a build (R18, R95): what changes, and every byte of `TXBUF` after it. -/
theorem finish_send (s : State) (bytes : List Byte) :
    s.finish (.ok (s.send bytes)) =
      { s with txbuf := (s.send bytes).txbuf, txlen := BitVec.ofNat 16 bytes.length,
               status := 0x80#8, errinfo := 0#32 } ∧
    ∀ k, (s.finish (.ok (s.send bytes))).txByte k = if h : k < bytes.length then bytes[k] else s.txByte k := by
  refine ⟨?_, fun k => ?_⟩
  · rw [State.finish_ok, State.complete_eq]
    rfl
  · rw [← State.txByte_send]
    rfl

/-- A big-endian read is below the power of its width (R4). -/
theorem State.memRead_lt (s : State) (off n : Nat) : s.memRead off n < 256 ^ n := by
  have h := beUint_lt (s.rxBytes off n)
  simpa [State.memRead, State.rxBytes] using h

/-- A big-endian read depends only on its own bytes (R4, R30). -/
theorem State.memRead_congr {s t : State} {off n : Nat}
    (h : ∀ k < n, s.rxByte (off + k) = t.rxByte (off + k)) : s.memRead off n = t.memRead off n := by
  unfold State.memRead State.rxBytes
  congr 1
  apply List.map_congr_left
  intro k hk
  exact h k (List.mem_range.1 hk)

end Sys2Proof.Machine
end

