-- ==== Sys2Proof/Laws/HostPort.lean ====
section
/-!
SUPPORT. What a host access can do to the block, said once, and the step of a host sequence that runs an
operation.
-/

namespace Sys2Proof.Machine

/-- A byte is a reserved code or some operation's code (R43, R44). -/
theorem decode_cases (c : Byte) : decode c = .error (.reservedOpcode c) ∨ ∃ i, decode c = .ok i ∧ encode i = c := by
  have h : ∀ c : Byte, decode c = .error (.reservedOpcode c) ∨
      ((decode c).toOption.map encode) = some c := by decide +kernel
  rcases h c with h | h
  · exact .inl h
  · cases hd : decode c with
    | error e => simp [hd, Except.toOption] at h
    | ok i => exact .inr ⟨i, rfl, by simpa [hd, Except.toOption] using h⟩

@[simp] theorem decode_encode (i : Instr) : decode (encode i) = .ok i := by cases i <;> rfl

/-- A write of `OP` (R15, R44): the operation it names ends, or the code is reserved. -/
theorem startOp_cases (c : Byte) (s : State) :
    (∃ i r, decode c = .ok i ∧ Ends i { s with op := c } r ∧
      startOp c s = .next (State.finish { s with op := c } r)) ∨
    decode c = .error (.reservedOpcode c) ∧
      startOp c s = .next (State.raise { s with op := c } (.illegalOp c)) := by
  rcases decode_cases c with h | ⟨i, h, -⟩
  · exact .inr ⟨h, by simp [startOp, h]⟩
  · obtain ⟨r, hr, he⟩ := exec_ends i { s with op := c }
    exact .inl ⟨i, r, h, hr, by simp [startOp, h, he]⟩

/-- What an operation leaves alone, however it ends (R9, R11, R19). -/
theorem Ends.frame {i : Instr} {s : State} {r : Except OpError State} (h : Ends i s r) :
    (s.finish r).cfg = s.cfg ∧ (s.finish r).a = s.a ∧ (s.finish r).op = s.op ∧
    (s.finish r).rxbuf = s.rxbuf ∧ (s.finish r).rxlen = s.rxlen ∧ (s.finish r).epoch = s.epoch ∧
    (s.finish r).host = s.host := by
  cases h with
  | raised => exact ⟨rfl, rfl, rfl, rfl, rfl, rfl, rfl⟩
  | completed h => cases h <;> exact ⟨rfl, rfl, rfl, rfl, rfl, rfl, rfl⟩

/-- An access to a byte of a buffer (R28). -/
theorem accessByte_of_lt {i : Nat} (h : i < 256) (s : State) : accessByte i s = .next s := by
  simp [accessByte, Config.bufCap, h]

theorem accessByte_of_le {i : Nat} (h : 256 ≤ i) (s : State) :
    accessByte i s = .fault (.noSuchBufferByte i) := by
  simp [accessByte, Config.bufCap, Nat.not_lt.2 h]

/-- The step in terms of the oldest pending access. -/
theorem step_nil {s : State} (h : s.host = []) : step s = .next s := by simp [step, serveNext, h]

theorem step_cons {s : State} {x : HostAction} {rest : List HostAction} (h : s.host = x :: rest) :
    step s = serve x { s with host := rest } := by simp [step, serveNext, h]

/-- A step of a host sequence that completes goes on. -/
theorem afterOp_of_ok {α : Type} {i : Instr} {s t : State} (k : State → SeqRun α)
    (h : exec i { s with op := encode i } = .next t) (he : t.err = 0#4) : afterOp i s k = k t := by
  simp [afterOp, startOp, h, he]

/-- A step of a host sequence that fails ends it with the block's code (R91). -/
theorem afterOp_of_error {α : Type} {i : Instr} {s t : State} (k : State → SeqRun α)
    (h : exec i { s with op := encode i } = .next t) (he : t.err ≠ 0#4) :
    afterOp i s k = ⟨t, [], .blockError t.err⟩ := by
  simp [afterOp, startOp, h, he]

/-- What an exchange can do (R83, R85): it sends one message, and either ends there or goes on with the bytes
that came. -/
theorem exchange_cases {α : Type} (peer : Message → Exchange) (ch : Channel) (s : State)
    (k : List Byte → SeqRun α) :
    ((peer ⟨ch, s.txBytes⟩ = .absent ∨ peer ⟨ch, s.txBytes⟩ = .sendFailed) ∧
      exchange peer ch s k = ⟨s, [⟨ch, s.txBytes⟩], .transportError⟩) ∨
    ∃ bytes, peer ⟨ch, s.txBytes⟩ = .answer bytes ∧
      exchange peer ch s k = { k bytes with sent := ⟨ch, s.txBytes⟩ :: (k bytes).sent } := by
  unfold exchange
  cases peer ⟨ch, s.txBytes⟩ with
  | sendFailed => exact .inl ⟨.inr rfl, rfl⟩
  | absent => exact .inl ⟨.inl rfl, rfl⟩
  | answer bytes => exact .inr ⟨bytes, rfl, rfl⟩

/-- An answer is presented if it fits `RXBUF` (R83, R90). -/
theorem present_of_le {α : Type} {bytes : List Byte} (h : bytes.length ≤ 256) (s : State) (k : State → SeqRun α) :
    present bytes s k = k (s.presentRx bytes) := by
  simp [present, Config.bufCap, h]

end Sys2Proof.Machine
end

