-- ==== Sys2Proof/Laws/PerInstr.lean ====
section
/-!
SUPPORT. The per-instruction family: every operation is well formed, and its one command byte decodes to it
(30_encoding.md R42, R43).
-/

namespace Sys2Proof.Laws.EncodedByOneCode

/-- The operation is well formed, and exactly one command byte decodes to it: its code. -/
def Statement (i : Instr) : Prop :=
  i.wellFormed = true ∧ decode (encode i) = .ok i ∧ ∀ c : Byte, decode c = .ok i → c = encode i

theorem scaleToFixed : Statement .scaleToFixed := ⟨rfl, rfl, by decide⟩
theorem fixedToScale : Statement .fixedToScale := ⟨rfl, rfl, by decide⟩
theorem pfToCode : Statement .pfToCode := ⟨rfl, rfl, by decide⟩
theorem decodePf : Statement .decodePf := ⟨rfl, rfl, by decide⟩
theorem buildSetOutput : Statement .buildSetOutput := ⟨rfl, rfl, by decide⟩
theorem buildPoll : Statement .buildPoll := ⟨rfl, rfl, by decide⟩
theorem parseOutputResponse : Statement .parseOutputResponse := ⟨rfl, rfl, by decide⟩
theorem wireAddr : Statement .wireAddr := ⟨rfl, rfl, by decide⟩
theorem buildRead : Statement .buildRead := ⟨rfl, rfl, by decide⟩
theorem parseRead : Statement .parseRead := ⟨rfl, rfl, by decide⟩
theorem combinePair : Statement .combinePair := ⟨rfl, rfl, by decide⟩
theorem scaleSingle : Statement .scaleSingle := ⟨rfl, rfl, by decide⟩
theorem buildWrite : Statement .buildWrite := ⟨rfl, rfl, by decide⟩
theorem tc16Encode : Statement .tc16Encode := ⟨rfl, rfl, by decide⟩

end Sys2Proof.Laws.EncodedByOneCode
end

