-- ==== Sys2Proof/Tests/Slice0.lean ====
section
/-!
SUPPORT. Tests: the check of a configuration, of an access and of a call refuses an ill-formed term; every
operation's command byte decodes to it; vectors of spec/95_test_vectors.md; and, for each obligation with
hypotheses, a concrete state and operands that meet them.
-/

namespace Sys2Proof.Tests

open Sys2Proof.Machine

/-! ### The test configuration TESTCFG-1 (95_test_vectors.md), a fixture and no claim about a device -/

def testConfig : Config where
  preamble := [0xA0#8, 0xA1#8, 0xA2#8, 0xA3#8, 0xA4#8]
  frameId := [0xB0#8]
  cmdLen := 2
  cmd := [0xC0#8, 0xC1#8]
  tailLen := 3
  tail := [0xD0#8, 0xD1#8, 0xD2#8]
  trailerConst := [0xE0#8, 0xE1#8]
  pollFrame := [0xF0#8, 0xF1#8, 0xF2#8, 0xF3#8, 0xF4#8, 0xF5#8, 0xF6#8, 0xF7#8]
  respOffV := #v[6, 10, 14]
  respOffI := #v[18, 22, 26]
  respOffPf := #v[30, 32, 34]
  respWV := 4
  respWI := 4
  respWPf := 2
  pfCode := { leading05 := 0x0101#16, c05 := 0x0202#16, c08 := 0x0303#16, l08 := 0x0404#16 }
  pfBands := [⟨0x000, 0x000, .unity⟩, ⟨0x100, 0x1FF, .leading05⟩, ⟨0x200, 0x2FF, .c05⟩,
    ⟨0x300, 0x3FF, .c08⟩, ⟨0x400, 0x4FF, .l08⟩]
  scaleRound := .nearest
  pairTable := [((0x0010#16, 0x0011#16), (1, 1)), ((0x0020#16, 0x0021#16), (1 / 10, 1 / 10))]
  directScale := [(0x0040#16, 1 / 100)]

theorem test_config_wellFormed : testConfig.wellFormed = true := by decide +kernel

def testBuilt : Config.Built := ⟨testConfig, test_config_wellFormed⟩

theorem test_config_truncating_wellFormed : ({ testConfig with scaleRound := .truncate }).wellFormed = true := by
  decide +kernel

/-- TESTCFG-1T. -/
def truncating : Config.Built := ⟨{ testConfig with scaleRound := .truncate }, test_config_truncating_wellFormed⟩

/-- The reset state of an instance of TESTCFG-1 with operands in `A0..A3`. -/
def st (a0 a1 a2 a3 : Reg64) : State := { State.reset with cfg := testBuilt, a := #v[a0, a1, a2, a3] }

/-- The same with received bytes presented. -/
def rx (bytes : List Byte) : State := (st 0 0 0 0).presentRx bytes

/-- The same with pending host accesses. -/
def hosted (xs : List HostAction) : State := { st 0 0 0 0 with host := xs }

/-- The first result registers after a step. -/
def regs (n : Nat) : Host.Outcome State Fault Refusal → Option (List Nat)
  | .next s => some ((s.r.toList.take n).map BitVec.toNat)
  | .fault _ => none
  | .refused _ => none

/-- `STATUS` and `ERRINFO` after a step. -/
def ends : Host.Outcome State Fault Refusal → Option (Nat × Nat)
  | .next s => some (s.status.toNat, s.errinfo.toNat)
  | .fault _ => none
  | .refused _ => none

/-- The valid bytes of `TXBUF` after a step. -/
def sent : Host.Outcome State Fault Refusal → Option (List Nat)
  | .next s => some (s.txBytes.map BitVec.toNat)
  | .fault _ => none
  | .refused _ => none

/-! ### Ill-formed terms are refused -/

theorem test_wf_frame_too_long :
    ({ testConfig with tailLen := 229, tail := List.replicate 229 0#8 }).frameFits = false ∧
    ({ testConfig with tailLen := 228, tail := List.replicate 228 0#8 }).frameFits = true := by
  decide +kernel

theorem test_wf_lengths :
    ({ testConfig with preamble := [0#8] }).wellFormed = false ∧
    ({ testConfig with frameId := [] }).wellFormed = false ∧
    ({ testConfig with cmdLen := 3 }).wellFormed = false ∧
    ({ testConfig with tail := [] }).wellFormed = false ∧
    ({ testConfig with trailerConst := [0#8] }).wellFormed = false ∧
    ({ testConfig with trailerTable := [([], [0#8])] }).wellFormed = false ∧
    ({ testConfig with pollFrame := [] }).wellFormed = false ∧
    ({ testConfig with writeSuffix := [0x11#8] }).wellFormed = false := by
  decide +kernel

theorem test_wf_layout :
    ({ testConfig with preambleLen := 4, preamble := List.replicate 4 0#8 }).wellFormed = false ∧
    ({ testConfig with wordLen := 3 }).wellFormed = false ∧
    ({ testConfig with minHexDigits := 3 }).wellFormed = false := by
  decide +kernel

theorem test_wf_response :
    ({ testConfig with respWV := 0 }).wellFormed = false ∧
    ({ testConfig with respWI := 5 }).wellFormed = false ∧
    ({ testConfig with respOffPf := #v[30, 32, 255] }).wellFormed = false ∧
    ({ testConfig with respOffPf := #v[30, 32, 254] }).wellFormed = true := by
  decide +kernel

theorem test_wf_unity_and_pair :
    ({ testConfig with pfCode := { testConfig.pfCode with unity := 1#16 } }).wellFormed = false ∧
    ({ testConfig with pairTable := [((0#16, 1#16), (1, 1))] }).wellFormed = false := by
  decide +kernel

theorem test_wf_scales :
    ({ testConfig with pairTable := [((1#16, 1#16), (1500000, 0))] }).wellFormed = false ∧
    ({ testConfig with directScale := [(1#16, -1500000)] }).wellFormed = false := by
  decide +kernel

theorem test_wf_bands :
    ({ testConfig with pfBands := [⟨2, 1, .unity⟩] }).wellFormed = false ∧
    ({ testConfig with pfBands := [⟨0, 2 ^ 32, .unity⟩] }).wellFormed = false ∧
    ({ testConfig with pfBands := [⟨0, 1, .unknown⟩] }).wellFormed = false := by
  decide +kernel

theorem test_wf_divisors_and_maps :
    ({ testConfig with divV := 0 }).wellFormed = false ∧
    ({ testConfig with directScale := [(1#16, 1), (1#16, 2)] }).wellFormed = false := by
  decide +kernel

theorem test_wf_accesses :
    (HostAction.read (.rx 256)).wellFormed = false ∧ (HostAction.writeTx 256 0#8).wellFormed = false ∧
    (HostAction.writeRx 255 0#8).wellFormed = true := by decide

theorem test_wf_calls :
    (Call.scaleToFixed (2 ^ 63)).wellFormed = false ∧ (Call.fixedToScale 0 8).wellFormed = false ∧
    (Call.pfToCode 256).wellFormed = false ∧ (Call.wireAddr 65536).wellFormed = false ∧
    (Call.parseRead (List.replicate 257 0#8)).wellFormed = false := by decide +kernel

theorem test_build_refuses : Config.build { testConfig with divV := 0 } = none := by
  have h : ({ testConfig with divV := 0 }).wellFormed = false := by decide +kernel
  simp [Config.build, h]

/-! ### Decoding: each command byte bit by bit from the map of R43 -/

theorem test_decode_scaler :
    decode 0b00000001#8 = .ok .scaleToFixed ∧ decode 0b00000010#8 = .ok .fixedToScale ∧
    decode 0b00000011#8 = .ok .pfToCode ∧ decode 0b00000100#8 = .ok .decodePf := by decide

theorem test_decode_codec :
    decode 0b00010000#8 = .ok .buildSetOutput ∧ decode 0b00010001#8 = .ok .buildPoll ∧
    decode 0b00010010#8 = .ok .parseOutputResponse := by decide

theorem test_decode_meter :
    decode 0b00100000#8 = .ok .wireAddr ∧ decode 0b00100001#8 = .ok .buildRead ∧
    decode 0b00100010#8 = .ok .parseRead ∧ decode 0b00100011#8 = .ok .combinePair ∧
    decode 0b00100100#8 = .ok .scaleSingle ∧ decode 0b00100101#8 = .ok .buildWrite ∧
    decode 0b00100110#8 = .ok .tc16Encode := by decide

theorem test_decode_reserved :
    decode 0x00#8 = .error (.reservedOpcode 0x00#8) ∧ decode 0x27#8 = .error (.reservedOpcode 0x27#8) := by
  decide

theorem test_table_word : decodeTableWord 8 0x26 = some .tc16Encode ∧ decodeTableWord 8 0x05 = none := by
  decide

theorem test_fetch_word :
    step (State.reset.withFetchWord 8 0x24) = exec .scaleSingle { State.reset with op := 0x24#8 } := rfl

/-! ### Vectors of 95_test_vectors.md, part 2 -/

/-- V1: 99.995 V goes up to 10000 in its class under `nearest`; -10^-8 is negative. -/
theorem test_scaleToFixed :
    regs 2 (exec .scaleToFixed (st 9999500000 0 0 0)) = some [10000, 1] ∧
    ends (exec .scaleToFixed (st 0xFFFFFFFFFFFFFFFF 0 0 0)) = some (0x81, 0x00000001) := by decide +kernel

/-- V1, T: 219.95 V truncates; 65535.5 stays a word. -/
theorem test_scaleToFixed_truncate :
    regs 2 (exec .scaleToFixed { st 21995000000 0 0 0 with cfg := truncating }) = some [2199, 2] ∧
    regs 2 (exec .scaleToFixed { st 6553550000000 0 0 0 with cfg := truncating }) = some [65535, 3] ∧
    ends (exec .scaleToFixed (st 6553550000000 0 0 0)) = some (0x81, 0x00000002) := by decide +kernel

/-- V2. -/
theorem test_fixedToScale :
    regs 1 (exec .fixedToScale (st 0xFFFFFFFF 5 0 0)) = some [214748364750] ∧
    regs 1 (exec .fixedToScale (st 7 0xFA 0 0)) = some [70000000] ∧
    ends (exec .fixedToScale (st 5 6 0 0)) = some (0x87, 0x00000001) := by decide +kernel

/-- V3. -/
theorem test_pfToCode :
    regs 1 (exec .pfToCode (st 0x0104 0 0 0)) = some [0x0404] ∧
    regs 1 (exec .pfToCode (st 0x7B 0 0 0)) = some [0] := by decide +kernel

/-- V3. -/
theorem test_decodePf :
    regs 1 (exec .decodePf (st 0x02FF 0 0 0)) = some [0x02] ∧
    regs 1 (exec .decodePf (st 0x00FF 0 0 0)) = some [0xFF] ∧
    regs 1 (exec .decodePf (st 0x0000000100000000 0 0 0)) = some [0x00] := by decide +kernel

/-- V4: 57.7 V, 5 A, `0.5_leading`. -/
theorem test_buildSetOutput :
    sent (exec .buildSetOutput (st 5770000000 500000000 0x01 0)) =
      some [0xA0, 0xA1, 0xA2, 0xA3, 0xA4, 0xB0, 0xC0, 0xC1, 0x16, 0x8A, 0x16, 0x8A, 0x16, 0x8A, 0x13, 0x88,
        0x13, 0x88, 0x13, 0x88, 0x01, 0x01, 0x01, 0x01, 0x01, 0x01, 0xD0, 0xD1, 0xD2, 0xE0, 0xE1] := by
  decide +kernel

/-- V4: the voltage hides the current; a bad current alone is reported as operand 1. -/
theorem test_buildSetOutput_errors :
    ends (exec .buildSetOutput (st 0xFFFFFFFFFA0A1F00 7000000000000 0 0)) = some (0x81, 0x00000001) ∧
    ends (exec .buildSetOutput (st 22000000000 0xFFFFFFFFFD050F80 0 0)) = some (0x81, 0x00000101) := by
  decide +kernel

/-- V5. -/
theorem test_buildPoll :
    sent (exec .buildPoll (st 1 2 3 4)) = some [0xF0, 0xF1, 0xF2, 0xF3, 0xF4, 0xF5, 0xF6, 0xF7] := by
  decide +kernel

/-- V6 (b). -/
theorem test_parseOutputResponse :
    regs 12 (exec .parseOutputResponse (rx [0xFF, 0xFF, 0xFF, 0xFF, 0xFF, 0xFF, 0x00, 0x21, 0x91, 0xC0, 0x00,
      0x21, 0x96, 0x92, 0x00, 0x21, 0x8C, 0xEE, 0x00, 0x3D, 0x09, 0x00, 0x00, 0x3D, 0x08, 0xFF, 0x00, 0x00, 0x00,
      0x0A, 0x01, 0x50, 0x02, 0x50, 0x09, 0x00, 0xDE, 0xAD])) =
    some [22000000000, 22012340000, 21987660000, 200000000, 199999950, 500, 0x0150, 0x0250, 0x0900, 0x01, 0x02,
      0xFF] := by decide +kernel

/-- V6 (d), (f). -/
theorem test_parseOutputResponse_errors :
    ends (exec .parseOutputResponse (rx (List.replicate 35 0#8))) = some (0x82, 0x00230024) ∧
    ends (exec .parseOutputResponse { st 0 0 0 0 with rxlen := 257#16 }) = some (0x87, 0x00000004) := by
  decide +kernel

/-- V7. -/
theorem test_wireAddr :
    regs 1 (exec .wireAddr (st 0x0071 0 0 0)) = some [0xD071] ∧
    regs 1 (exec .wireAddr (st 0x10070 0 0 0)) = some [0xE070] ∧
    ends (exec .wireAddr (st 0x3000 0 0 0)) = some (0x86, 0x00003000) := by decide +kernel

/-- V7. -/
theorem test_buildRead :
    sent (exec .buildRead (st 0x0012 0 0 0)) = some [0xD0, 0x12] ∧
    ends (exec .buildRead (st 0xFFFF 0 0 0)) = some (0x86, 0x0000FFFF) := by decide +kernel

/-- V8. -/
theorem test_parseRead :
    regs 1 (exec .parseRead (rx [0x01, 0x02, 0x03, 0x04, 0x05])) = some [0x0405] ∧
    ends (exec .parseRead (rx [0x12])) = some (0x84, 0x00000001) ∧
    ends (exec .parseRead { st 0 0 0 0 with rxlen := 300#16 }) = some (0x87, 0x00000004) := by decide +kernel

/-- V9. -/
theorem test_combinePair :
    regs 1 (exec .combinePair (st 0x0010 0x0011 0xFF00 0x00DC)) = some [22099609375] ∧
    regs 1 (exec .combinePair (st 0x0020 0x0021 0x0100 0x0001)) = some [10039062] ∧
    ends (exec .combinePair (st 0x0011 0x0010 0 0)) = some (0x83, 0x00110010) := by decide +kernel

/-- V10. -/
theorem test_scaleSingle :
    regs 2 (exec .scaleSingle (st 0x0040 0xFFFF 0 0)) = some [65535000000, 1] ∧
    regs 2 (exec .scaleSingle (st 0x0012 0xCE40 0 0)) = some [0xCE40, 0] := by decide +kernel

/-- V11. -/
theorem test_buildWrite :
    sent (exec .buildWrite (st 0x0012 0x1FD28 0 0)) = some [0xFD, 0x28, 0x11, 0x11, 0x11, 0x01, 0xD0, 0x12] ∧
    ends (exec .buildWrite (st 0x3000 1 0 0)) = some (0x86, 0x00003000) := by decide +kernel

/-- V12. -/
theorem test_tc16Encode :
    regs 1 (exec .tc16Encode (st 0xFFFFFFFFFFFFFD28 0 0 0)) = some [0xFD28] ∧
    regs 1 (exec .tc16Encode (st 0xFFFFFFFFFFFF8000 0 0 0)) = some [0x8000] ∧
    ends (exec .tc16Encode (st 0x8000 0 0 0)) = some (0x81, 0x00000003) := by decide +kernel

/-- V13. -/
theorem test_reserved_code : ends (step (hosted [.writeOp 0xFF#8])) = some (0x85, 0x000000FF) := by
  decide +kernel

/-! ### Witnesses: a concrete state and operands that meet the hypotheses of each statement -/

theorem witness_BigEndianBytesAreUnique :
    (65535 < 256 ^ 2 ∧ ([0xFF#8, 0xFF#8] : List Byte).length = 2 ∧ beUint [0xFF#8, 0xFF#8] = 65535) ∧
    0 < 256 ^ 0 ∧ ([] : List Byte).length = 0 ∧ beUint [] = 0 := by decide

theorem witness_BuildRefusesIllFormedConfigurations : Config.build testConfig = some testBuilt := by
  simp [Config.build, test_config_wellFormed, testBuilt]

theorem witness_ResetPutsEveryResetValue :
    (hosted [.reset, .writeOp 1#8]).host = .reset :: [.writeOp 1#8] := rfl

theorem witness_OperationsWriteOnlyTheirResults :
    (∃ t, exec .scaleToFixed (st 1 2 3 4) = .next t) ∧ 2 ∉ resultsOf .scaleToFixed ∧
    builds .scaleToFixed = false ∧ builds .buildPoll = true ∧
    ∃ t, exec .buildPoll (st 0 0 0 0) = .next t ∧ t.txlen.toNat ≤ 8 :=
  ⟨⟨_, rfl⟩, by decide, rfl, rfl, _, rfl, by decide +kernel⟩

theorem witness_HostWritesOfReadOnlyStateAreIgnored :
    (hosted [.writeR 11 1]).host = .writeR 11 1 :: [] ∧ (hosted [.writeStatus 1]).host = .writeStatus 1 :: [] ∧
    (hosted [.writeErrinfo 1]).host = .writeErrinfo 1 :: [] ∧
    (hosted [.writeTxlen 1]).host = .writeTxlen 1 :: [] ∧
    (hosted [.writeTx 255 1]).host = .writeTx 255 1 :: [] ∧ 255 < 256 := ⟨rfl, rfl, rfl, rfl, rfl, by decide⟩

theorem witness_HostWritesAnOperandRegister :
    (hosted [.writeA 3 7]).host = .writeA 3 7 :: [] ∧ (0 : Fin 4) ≠ 3 := ⟨rfl, by decide⟩

theorem witness_HostWritesTheReceiveBuffer :
    (255 < 256 ∧ (hosted [.writeRx 255 7]).host = .writeRx 255 7 :: [] ∧ 0 ≠ 255) ∧
    (hosted [.writeRxlen 0xFFFF]).host = .writeRxlen 0xFFFF :: [] := ⟨⟨by decide, rfl, by decide⟩, rfl⟩

theorem witness_StepRunsTheDecodedOperation :
    (hosted [.writeOp 0x26#8]).host = .writeOp 0x26#8 :: [] ∧ decode 0x26#8 = .ok .tc16Encode := ⟨rfl, rfl⟩

theorem witness_OpHoldsTheLastValueWritten :
    (∃ t, step (hosted [.writeOp 0x11#8]) = .next t) ∧ (∃ t, step (hosted [.reset]) = .next t) ∧
    ∃ t, step (hosted [.read .op]) = .next t := ⟨⟨_, rfl⟩, ⟨_, rfl⟩, ⟨_, rfl⟩⟩

theorem witness_DoneIsClearedOnlyByReset :
    ∃ t, step { hosted [.writeOp 0x11#8] with status := 0x80#8 } = .next t ∧
      State.done { hosted [.writeOp 0x11#8] with status := 0x80#8 } = true ∧
      ∀ rest, (hosted [.writeOp 0x11#8]).host ≠ .reset :: rest :=
  ⟨_, rfl, rfl, fun _ h => by simp [hosted] at h⟩

theorem witness_PhysResultsNeverWrap :
    pairScales testBuilt.val 0x0020#16 0x0021#16 = some (1 / 10, 1 / 10) ∧
    testBuilt.val.directScale.lookup 0x0040#16 = some (1 / 100) ∧ 2 ^ 32 - 1 < 2 ^ 32 := by decide +kernel

theorem witness_ResultsDependOnlyOnOperands :
    (SameOperands .scaleSingle (st 0x0040 5 0 0) (st 0x10040 0xABC0005 1 2) ∧
      ∃ t t', exec .scaleSingle (st 0x0040 5 0 0) = .next t ∧
        exec .scaleSingle (st 0x10040 0xABC0005 1 2) = .next t' ∧ t.err = 0#4) ∧
    (SameOperands .buildPoll (st 0 0 0 0) (st 1 2 3 4) ∧ builds .buildPoll = true ∧
      ∃ t t', exec .buildPoll (st 0 0 0 0) = .next t ∧ exec .buildPoll (st 1 2 3 4) = .next t' ∧
        t.err = 0#4) ∧
    (st 0 0 0 0).cfg = (st 1 2 3 4).cfg :=
  ⟨⟨⟨by decide +kernel, by decide +kernel⟩, _, _, rfl, rfl, by decide +kernel⟩,
    ⟨trivial, rfl, _, _, rfl, rfl, by decide +kernel⟩, rfl⟩

theorem witness_AccessOutsideTheBuffersStops :
    256 ≤ 256 ∧ (hosted [.writeRx 256 1]).host = .writeRx 256 1 :: [] ∧
    (hosted [.writeTx 256 1]).host = .writeTx 256 1 :: [] ∧
    (hosted [.read (.rx 256)]).host = .read (.rx 256) :: [] ∧
    (hosted [.read (.tx 256)]).host = .read (.tx 256) :: [] := ⟨le_rfl, rfl, rfl, rfl, rfl⟩

theorem witness_NarrowReadsSeeEndsOfAField : 2 ≤ 4 ∧ 0 ≤ 0 := by decide

theorem witness_HostReadsChangeNothing :
    (hosted [.read (.tx 255)]).host = .read (.tx 255) :: [] ∧
    ∃ v, (hosted [.read (.tx 255)]).hostRead (.tx 255) = some v := ⟨rfl, _, rfl⟩

theorem witness_WireAddressesThatOccur :
    (st 0x2FFF 0 0 0).cfg.val.AtDefaults ∧
    (∃ t, exec .wireAddr (st 0x2FFF 0 0 0) = .next t ∧ t.err = 0#4) ∧
    (∃ t, exec .wireAddr (st 0x3000 0 0 0) = .next t ∧ t.err ≠ 0#4) ∧
    ∃ t, exec .wireAddr (st 0x1070 0 0 0) = .next t ∧ t.err = 0#4 :=
  ⟨by decide +kernel, ⟨_, rfl, by decide +kernel⟩, ⟨_, rfl, by decide +kernel⟩, ⟨_, rfl, by decide +kernel⟩⟩

theorem witness_ReservedCodesEndInIllegalOp :
    (∀ c ∈ [0x00, 0x05, 0x0F, 0x13, 0x1F, 0x27, 0xFF],
      c = 0x00 ∨ (0x05 ≤ c ∧ c ≤ 0x0F) ∨ (0x13 ≤ c ∧ c ≤ 0x1F) ∨ (0x27 ≤ c ∧ c ≤ 0xFF)) ∧
    (∀ c ∈ [0x01, 0x04, 0x10, 0x12, 0x20, 0x26],
      ¬ (c = 0x00 ∨ (0x05 ≤ c ∧ c ≤ 0x0F) ∨ (0x13 ≤ c ∧ c ≤ 0x1F) ∨ (0x27 ≤ c ∧ c ≤ 0xFF))) ∧
    (hosted [.writeOp 0x27#8]).host = .writeOp 0x27#8 :: [] := ⟨by decide, by decide, rfl⟩

theorem witness_CallsDeliverTheirOperands :
    (∀ c ∈ [Call.scaleToFixed (-(2 ^ 63)), .combinePair 0xFFFF 0 0xFFFF 0, .parseRead [1#8, 2#8], .buildPoll],
      c.wellFormed = true) ∧
    (hosted (expandCall (.parseRead [1#8, 2#8]) ++ [.reset])).host =
      expandCall (.parseRead [1#8, 2#8]) ++ [.reset] := ⟨by decide, rfl⟩

theorem witness_DefaultBucketsCountDigits : (0 : ℚ) ≤ 10 ∧ (0 : ℚ) ≤ 999 ∧ (999 : ℚ) < 1000 := by norm_num

/-- 220 V at TESTCFG-1 has class 2 and the integer 2200; the other lines are the ends of the range. -/
theorem witness_ScaledTo :
    ScaledTo testBuilt.val 220 2 2200 ∧ ScaledTo testBuilt.val 2 0 2000 ∧ ScaledTo testBuilt.val 0 0 0 ∧
    ScaledTo testBuilt.val 65535 3 65535 ∧ ScaledTo testBuilt.val 65536 3 65536 ∧
    ScaledTo testBuilt.val (-1) 0 (-1000) :=
  ⟨⟨by decide +kernel, by decide +kernel⟩, ⟨by decide +kernel, by decide +kernel⟩,
    ⟨by decide +kernel, by decide +kernel⟩, ⟨by decide +kernel, by decide +kernel⟩,
    ⟨by decide +kernel, by decide +kernel⟩, ⟨by decide +kernel, by decide +kernel⟩⟩

theorem witness_ScaleToFixedResult :
    ((65535 : ℚ) = ((st 6553500000000 0 0 0).a[0].toInt : ℚ) / 10 ^ 8 ∧
      ScaledTo (st 6553500000000 0 0 0).cfg.val 65535 3 65535 ∧ (0 : ℚ) ≤ 65535 ∧ (65535 : ℤ) ≤ 65535) ∧
    ((-1 : ℚ) = ((st 0xFFFFFFFFFA0A1F00 0 0 0).a[0].toInt : ℚ) / 10 ^ 8 ∧
      ScaledTo (st 0xFFFFFFFFFA0A1F00 0 0 0).cfg.val (-1) 0 (-1000) ∧ (-1 : ℚ) < 0) ∧
    (65536 : ℚ) = ((st 6553600000000 0 0 0).a[0].toInt : ℚ) / 10 ^ 8 ∧
      ScaledTo (st 6553600000000 0 0 0).cfg.val 65536 3 65536 ∧ (0 : ℚ) ≤ 65536 ∧ (65535 : ℤ) < 65536 :=
  ⟨⟨by decide +kernel, witness_ScaledTo.2.2.2.1, by norm_num, by decide⟩,
    ⟨by decide +kernel, witness_ScaledTo.2.2.2.2.2, by norm_num⟩,
    by decide +kernel, witness_ScaledTo.2.2.2.2.1, by norm_num, by decide⟩

theorem witness_FixedToScaleResult :
    (1000 = (st 1000 3 0 0).a[0].toNat % 2 ^ 32 ∧ 3 = (st 1000 3 0 0).a[1].toNat % 8 ∧
      3 = ((3 : Fin 4) : Nat) ∧ (1000 : ℚ) = 1000 / ((st 1000 3 0 0).cfg.val.scaleBuckets.factor[(3 : Fin 4)] : ℚ)) ∧
    (4 = (st 1 4 0 0).a[1].toNat % 8 ∧ 1 / 10000 = (1 : ℚ) / (st 1 4 0 0).cfg.val.divV) ∧
    (5 = (st 1 5 0 0).a[1].toNat % 8 ∧
      1 / 2000000 = (1 : ℚ) / (st 1 5 0 0).cfg.val.divI1 / (st 1 5 0 0).cfg.val.divI2) ∧
    6 = (st 1 0xE 0 0).a[1].toNat % 8 ∧ 6 ≤ 6 := by decide +kernel

theorem witness_FixedToScaleIsExactAtSourceDivisors :
    (st 0xFFFFFFFF 5 0 0).cfg.val.AtDefaults ∧ 0xFFFFFFFF = (st 0xFFFFFFFF 5 0 0).a[0].toNat % 2 ^ 32 ∧
    5 = (st 0xFFFFFFFF 5 0 0).a[1].toNat % 8 ∧ 5 < 6 := by decide +kernel

theorem witness_PfToCodeResult :
    ∀ l ∈ [0, 1, 2, 3, 4, 5, 255], l = (st (BitVec.ofNat 64 (l + 256)) 0 0 0).a[0].toNat % 256 := by
  decide +kernel

theorem witness_DecodePfResult :
    (0x1FF = (st 0x1FF 0 0 0).a[0].toNat % 2 ^ 32 ∧
      (st 0x1FF 0 0 0).cfg.val.pfBands =
        [⟨0x000, 0x000, .unity⟩] ++ ⟨0x100, 0x1FF, .leading05⟩ ::
          [⟨0x200, 0x2FF, .c05⟩, ⟨0x300, 0x3FF, .c08⟩, ⟨0x400, 0x4FF, .l08⟩] ∧
      (∀ b' ∈ [(⟨0x000, 0x000, .unity⟩ : Band)], ¬ (b'.lo ≤ 0x1FF ∧ 0x1FF ≤ b'.hi)) ∧ 0x100 ≤ 0x1FF ∧
      0x1FF ≤ 0x1FF) ∧
    0xFF = (st 0xFF 0 0 0).a[0].toNat % 2 ^ 32 ∧
    ∀ b ∈ (st 0xFF 0 0 0).cfg.val.pfBands, ¬ (b.lo ≤ 0xFF ∧ 0xFF ≤ b.hi) := by decide +kernel

theorem witness_ScalerRoundTrip :
    (st 123450000 0 0 0).cfg.val.scaleBuckets = {} ∧
    (2469 / 2000 : ℚ) = ((st 123450000 0 0 0).a[0].toInt : ℚ) / 10 ^ 8 ∧
    (∃ t, exec .scaleToFixed (st 123450000 0 0 0) = .next t ∧ t.err = 0#4 ∧ (st 1235 0 0 0).a[0] = t.r[0] ∧
      (st 1235 0 0 0).a[1] = t.r[1] ∧ [(1000 : ℚ), 100, 10, 1][t.r[1].toNat]? = some 1000 ∧
      (1235 / 1000 : ℚ) = (t.r[0].toNat : ℚ) / 1000) ∧
    (st 1235 0 0 0).cfg = (st 123450000 0 0 0).cfg ∧ testBuilt.val.scaleRound = .nearest ∧
    truncating.val.scaleBuckets = {} ∧ truncating.val.scaleRound = .truncate ∧
    (∃ t, exec .scaleToFixed { st 123450000 0 0 0 with cfg := truncating } = .next t ∧ t.err = 0#4 ∧
      t.r[0] = 1234#64 ∧ [(1000 : ℚ), 100, 10, 1][t.r[1].toNat]? = some 1000) ∧
    (499 : ℚ) = ((st 49900000000 0 0 0).a[0].toInt : ℚ) / 10 ^ 8 ∧
    ∃ t, exec .scaleToFixed (st 49900000000 0 0 0) = .next t ∧ t.err = 0#4 :=
  ⟨by decide +kernel, by decide +kernel,
    ⟨_, rfl, by decide +kernel, by decide +kernel, by decide +kernel, by decide +kernel, by decide +kernel⟩,
    rfl, rfl, by decide +kernel, rfl, ⟨_, rfl, by decide +kernel, by decide +kernel, by decide +kernel⟩,
    by decide +kernel, _, rfl, by decide +kernel⟩

/-- The bytes before the trailer for 220 V, 2 A and `0.5_leading`. -/
def testBody : List Byte :=
  [0xA0, 0xA1, 0xA2, 0xA3, 0xA4, 0xB0, 0xC0, 0xC1, 0x08, 0x98, 0x08, 0x98, 0x08, 0x98, 0x07, 0xD0, 0x07, 0xD0,
    0x07, 0xD0, 0x01, 0x01, 0x01, 0x01, 0x01, 0x01, 0xD0, 0xD1, 0xD2]

/-- A strategy that is not the constant: another trailer for `testBody`. -/
def tabledConfig : Config := { testConfig with trailerTable := [(testBody, [0x12#8, 0x34#8])] }

theorem test_config_tabled_wellFormed : tabledConfig.wellFormed = true := by decide +kernel

/-- The reset state of an instance with that strategy, at the operands of `testBody`. -/
def tabled : State :=
  { st 22000000000 200000000 1 0 with cfg := ⟨tabledConfig, test_config_tabled_wellFormed⟩ }

/-- The same body, built under each of the two strategies; under the table's the frame ends in its bytes. -/
theorem witness_BuildSetOutputFrame :
    ((220 : ℚ) = ((st 22000000000 200000000 1 0).a[0].toInt : ℚ) / 10 ^ 8 ∧
      (2 : ℚ) = ((st 22000000000 200000000 1 0).a[1].toInt : ℚ) / 10 ^ 8 ∧
      ScaledTo (st 22000000000 200000000 1 0).cfg.val 220 2 2200 ∧
      ScaledTo (st 22000000000 200000000 1 0).cfg.val 2 0 2000 ∧
      (0 : ℚ) ≤ 220 ∧ (2200 : ℤ) ≤ 65535 ∧ (0 : ℚ) ≤ 2 ∧ (2000 : ℤ) ≤ 65535) ∧
    setOutputBody testConfig 2200#16 2000#16 0x0101#16 = testBody ∧
    (∀ e ∈ (st 22000000000 200000000 1 0).cfg.val.trailerTable, e.1 ≠ testBody) ∧
    (testBody, [0x12#8, 0x34#8]) ∈ tabled.cfg.val.trailerTable ∧
    (sent (exec .buildSetOutput tabled)).map (List.drop 29) = some [0x12, 0x34] :=
  ⟨⟨by decide +kernel, by decide +kernel, witness_ScaledTo.1, witness_ScaledTo.2.1, by norm_num, by decide,
    by norm_num, by decide⟩, by decide +kernel, by decide +kernel, by decide +kernel, by decide +kernel⟩

/-- The values and words of these hypotheses are those of `witness_BuildSetOutputFrame`. -/
theorem witness_SetOutputFieldOffsets :
    ScaledTo (st 22000000000 200000000 1 0).cfg.val 220 2 2200 ∧
    ScaledTo (st 22000000000 200000000 1 0).cfg.val 2 0 2000 ∧
    ∃ t, exec .buildSetOutput (st 22000000000 200000000 1 0) = .next t ∧ t.err = 0#4 ∧
      2 = (st 22000000000 200000000 1 0).cfg.val.cmdLen ∧ 3 = (st 22000000000 200000000 1 0).cfg.val.tailLen :=
  ⟨witness_ScaledTo.1, witness_ScaledTo.2.1, _, rfl, by decide +kernel, rfl, rfl⟩

/-- One state for each clause: both bad, the voltage too high, the current negative, the current too high. -/
theorem witness_BuildSetOutputErrorsInOrder :
    ((-1 : ℚ) = ((st 0xFFFFFFFFFA0A1F00 0xFFFFFFFFFA0A1F00 0 0).a[0].toInt : ℚ) / 10 ^ 8 ∧
      (-1 : ℚ) = ((st 0xFFFFFFFFFA0A1F00 0xFFFFFFFFFA0A1F00 0 0).a[1].toInt : ℚ) / 10 ^ 8 ∧
      ScaledTo testBuilt.val (-1) 0 (-1000) ∧ (-1 : ℚ) < 0) ∧
    ((65536 : ℚ) = ((st 6553600000000 0xFFFFFFFFFA0A1F00 0 0).a[0].toInt : ℚ) / 10 ^ 8 ∧
      ScaledTo testBuilt.val 65536 3 65536 ∧ (0 : ℚ) ≤ 65536 ∧ (65535 : ℤ) < 65536) ∧
    ((65535 : ℚ) = ((st 6553500000000 0xFFFFFFFFFA0A1F00 0 0).a[0].toInt : ℚ) / 10 ^ 8 ∧
      (-1 : ℚ) = ((st 6553500000000 0xFFFFFFFFFA0A1F00 0 0).a[1].toInt : ℚ) / 10 ^ 8 ∧
      ScaledTo testBuilt.val 65535 3 65535 ∧ (65535 : ℤ) ≤ 65535) ∧
    (0 : ℚ) = ((st 0 6553600000000 0 0).a[0].toInt : ℚ) / 10 ^ 8 ∧
    (65536 : ℚ) = ((st 0 6553600000000 0 0).a[1].toInt : ℚ) / 10 ^ 8 ∧ ScaledTo testBuilt.val 0 0 0 :=
  ⟨⟨by decide +kernel, by decide +kernel, witness_ScaledTo.2.2.2.2.2, by norm_num⟩,
    ⟨by decide +kernel, witness_ScaledTo.2.2.2.2.1, by norm_num, by decide⟩,
    ⟨by decide +kernel, by decide +kernel, witness_ScaledTo.2.2.2.1, by decide⟩,
    by decide +kernel, by decide +kernel, witness_ScaledTo.2.2.1⟩

theorem witness_UnrecognizedLabelBuildsUnityFrame :
    (st 220 2 5 0).cfg = (st 220 2 0x100 0).cfg ∧ (st 220 2 5 0).a[0] = (st 220 2 0x100 0).a[0] ∧
    (st 220 2 5 0).a[1] = (st 220 2 0x100 0).a[1] ∧ 5 ≤ (st 220 2 5 0).a[2].toNat % 256 ∧
    (st 220 2 0x100 0).a[2].toNat % 256 = 0 ∧
    ∃ t t', exec .buildSetOutput (st 220 2 5 0) = .next t ∧ exec .buildSetOutput (st 220 2 0x100 0) = .next t' ∧
      t.err = 0#4 :=
  ⟨rfl, rfl, rfl, by decide +kernel, by decide +kernel, _, _, rfl, rfl, by decide +kernel⟩

theorem witness_ConstantTrailerIgnoresTheFields :
    (st 0 0 0 0).cfg.val.trailerTable = [] ∧
    ∃ t, exec .buildSetOutput (st 0 0 0 0) = .next t ∧ t.err = 0#4 := ⟨rfl, _, rfl, by decide +kernel⟩

theorem witness_ParseOutputResponseResult :
    257 = ({ st 0 0 0 0 with rxlen := 257#16 } : State).rxlen.toNat ∧
    (256 = ({ st 0 0 0 0 with rxlen := 256#16 } : State).rxlen.toNat ∧ (st 0 0 0 0).cfg.val.respMinLen ≤ 256) ∧
    (35 = (rx (List.replicate 35 0#8)).rxlen.toNat ∧ 35 < (st 0 0 0 0).cfg.val.respMinLen) ∧
    36 = (rx (List.replicate 36 0#8)).rxlen.toNat ∧ (st 0 0 0 0).cfg.val.respMinLen ≤ 36 := by decide +kernel

theorem witness_ParseLanesAreScalerResults :
    (∃ t, exec .parseOutputResponse (rx (List.replicate 36 1#8)) = .next t ∧ t.err = 0#4) ∧
    (st 0x01010101 4 0 0).a[0].toNat = (rx (List.replicate 36 1#8)).memRead 14 4 ∧
    (st 0x01010101 4 0 0).a[1].toNat = selectorOf .voltage ∧
    (∃ v, exec .fixedToScale (st 0x01010101 4 0 0) = .next v) ∧
    (st 0x01010101 5 0 0).a[0].toNat = (rx (List.replicate 36 1#8)).memRead 26 4 ∧
    (st 0x01010101 5 0 0).a[1].toNat = selectorOf .current ∧
    (∃ v, exec .fixedToScale (st 0x01010101 5 0 0) = .next v) ∧
    (st 0x0101 0 0 0).a[0].toNat = (rx (List.replicate 36 1#8)).memRead 34 2 ∧
    ∃ v, exec .decodePf (st 0x0101 0 0 0) = .next v :=
  ⟨⟨_, rfl, by decide +kernel⟩, by decide +kernel, by decide +kernel, ⟨_, rfl⟩, by decide +kernel,
    by decide +kernel, ⟨_, rfl⟩, by decide +kernel, _, rfl⟩

/-- The two buffers differ in every byte outside phase R's three fields. -/
theorem witness_ParseLanesSeeOnlyTheirField :
    ∃ s s' t t', s = rx (List.replicate 36 7#8) ∧
      s' = rx (List.replicate 6 0#8 ++ List.replicate 4 7#8 ++ List.replicate 8 0#8 ++ List.replicate 4 7#8 ++
        List.replicate 8 0#8 ++ List.replicate 2 7#8 ++ List.replicate 4 0#8) ∧
      exec .parseOutputResponse s = .next t ∧ exec .parseOutputResponse s' = .next t' ∧ t.err = 0#4 ∧
      t'.err = 0#4 ∧ (∀ k < 4, s.rxByte (6 + k) = s'.rxByte (6 + k)) ∧
      (∀ k < 4, s.rxByte (18 + k) = s'.rxByte (18 + k)) ∧ (∀ k < 2, s.rxByte (30 + k) = s'.rxByte (30 + k)) ∧
      s.rxByte 10 ≠ s'.rxByte 10 :=
  ⟨_, _, _, _, rfl, rfl, rfl, rfl, by decide +kernel, by decide +kernel, by decide +kernel, by decide +kernel,
    by decide +kernel, by decide +kernel⟩

/-- For `WIRE_ADDR`, `BUILD_READ` and `BUILD_WRITE`: the last address that fits, the first that does not, and
the special one. -/
theorem witness_WireAddrResult_BuildReadPayload_BuildWritePayload :
    (0x2FFF = (st 0x2FFF 0xFFFF 0 0).a[0].toNat % 65536 ∧ 0xFFFF = (st 0x2FFF 0xFFFF 0 0).a[1].toNat % 65536 ∧
      wireSum (st 0x2FFF 0 0 0).cfg.val 0x2FFF#16 ≤ 0xFFFF) ∧
    (0x3000 = (st 0x3000 0 0 0).a[0].toNat % 65536 ∧ 0xFFFF < wireSum (st 0x3000 0 0 0).cfg.val 0x3000#16) ∧
    (st 0 0 0 0).cfg.val.specialAddr.toNat = (st 0x10070 0 0 0).a[0].toNat % 65536 := by decide +kernel

theorem witness_ParseReadResult :
    256 < ({ st 0 0 0 0 with rxlen := 257#16 } : State).rxlen.toNat ∧ (rx [1#8]).rxlen.toNat < 2 ∧
    2 ≤ (rx [1#8, 2#8]).rxlen.toNat ∧ (rx [1#8, 2#8]).rxlen.toNat ≤ 256 ∧
    2 ≤ ({ st 0 0 0 0 with rxlen := 256#16 } : State).rxlen.toNat ∧
    ({ st 0 0 0 0 with rxlen := 256#16 } : State).rxlen.toNat ≤ 256 := by decide +kernel

theorem witness_CombinePairResult :
    (0x0020#16 = (st 0x20 0x21 0xFF00 1).operand 0 16 ∧ 0x0021#16 = (st 0x20 0x21 0xFF00 1).operand 1 16 ∧
      ((0x0020#16, 0x0021#16), ((1 / 10 : ℚ), (1 / 10 : ℚ))) ∈ (st 0x20 0x21 0xFF00 1).cfg.val.pairTable) ∧
    0x0021#16 = (st 0x21 0x20 0 0).operand 0 16 ∧ 0x0020#16 = (st 0x21 0x20 0 0).operand 1 16 ∧
    ∀ e ∈ (st 0x21 0x20 0 0).cfg.val.pairTable, e.1 ≠ (0x0021#16, 0x0020#16) := by decide +kernel

theorem witness_PairLookupFailsClosed :
    (∃ t, exec .combinePair (st 0x20 0x21 0 0) = .next t ∧ t.err = 0#4) ∧
    (∃ t, exec .combinePair (st 0x21 0x20 0 0) = .next t ∧ t.err ≠ 0#4) ∧
    (st 0 1 0 0).operand 0 16 = 0x0000#16 ∧ (st 0 1 0 0).operand 1 16 = 0x0001#16 ∧
    ∃ t, exec .combinePair (st 0 1 0 0) = .next t :=
  ⟨⟨_, rfl, by decide +kernel⟩, ⟨_, rfl, by decide +kernel⟩, by decide +kernel, by decide +kernel, _, rfl⟩

theorem witness_ScaleSingleResult :
    (0x0040#16 = (st 0x40 0xFFFF 0 0).operand 0 16 ∧ 0xFFFF = (st 0x40 0xFFFF 0 0).a[1].toNat % 65536 ∧
      (0x0040#16, (1 / 100 : ℚ)) ∈ (st 0x40 0xFFFF 0 0).cfg.val.directScale) ∧
    0x0041#16 = (st 0x41 0xFFFF 0 0).operand 0 16 ∧
    ∀ e ∈ (st 0x41 0xFFFF 0 0).cfg.val.directScale, e.1 ≠ 0x0041#16 := by decide +kernel

theorem witness_Tc16EncodeResult :
    (-32768 = (st 0xFFFFFFFFFFFF8000 0 0 0).a[0].toInt ∧ 32767 = (st 0x7FFF 0 0 0).a[0].toInt) ∧
    -32769 = (st 0xFFFFFFFFFFFF7FFF 0 0 0).a[0].toInt ∧ 32768 = (st 0x8000 0 0 0).a[0].toInt := by
  decide +kernel

theorem witness_WriteThenReadRoundTrips :
    (st 0 0 0 0).cfg.val.AtDefaults ∧ (0x2FFF#16).toNat < 0x3000 ∧
    (∀ e ∈ (st 0 0 0 0).cfg.val.directScale, e.1 ≠ 0x2FFF#16) ∧ (0x0040#16).toNat < 0x3000 ∧
    (0x0040#16, (1 / 100 : ℚ)) ∈ (st 0 0 0 0).cfg.val.directScale := by decide +kernel

/-- A peer that loses the frames of the power supply and never answers the meter's. -/
def deafPeer (m : Message) : Exchange :=
  match m.channel with
  | .ps => .sendFailed
  | .mtRead => .absent
  | .mtWrite => .absent

theorem witness_AbsentAnswerEndsTheSequence :
    (∀ m, deafPeer m = .absent ∨ deafPeer m = .sendFailed) ∧
    wireSum (st 0 0 0 0).cfg.val 0x2FFF#16 ≤ 0xFFFF ∧ wireSum (st 0 0 0 0).cfg.val 0x0070#16 ≤ 0xFFFF ∧
    (List.replicate 254 0#8).length ≤ 254 ∧
    ∃ t, startOp 0x10#8 ((((st 0 0 0 0).setA 0 22000000000).setA 1 200000000).setA 2 ((0#8).setWidth 64)) =
      .next t ∧ t.err = 0#4 ∧ deafPeer ⟨.ps, t.txBytes⟩ = .sendFailed :=
  ⟨fun ⟨c, _⟩ => by cases c <;> simp [deafPeer], by decide +kernel, by decide +kernel, by decide +kernel, _, rfl,
    by decide +kernel, rfl⟩

/-- An address that overflows, one that does not before one that does, and each of the four ends of a bad
set-output. -/
theorem witness_FailedBuildSendsNothing :
    0xFFFF < wireSum (st 0 0 0 0).cfg.val 0x3000#16 ∧ wireSum (st 0 0 0 0).cfg.val 0x2FFF#16 ≤ 0xFFFF ∧
    (List.replicate 254 0#8).length ≤ 254 ∧ (0xFFFFFFFFFFFFFFFF#64).toInt < 0 ∧
    ∀ v ∈ [(0xFFFFFFFFFFFFFFFF#64, 0#64), (6553600000000#64, 0#64), (0#64, 0xFFFFFFFFFFFFFFFF#64),
        (0#64, 6553600000000#64)],
      ∃ t, startOp 0x10#8 ((((st 0 0 0 0).setA 0 v.1).setA 1 v.2).setA 2 ((0#8).setWidth 64)) = .next t ∧
        t.err ≠ 0#4 := by
  refine ⟨by decide +kernel, by decide +kernel, by decide +kernel, by decide +kernel, ?_⟩
  simp only [List.forall_mem_cons, List.not_mem_nil, false_implies, implies_true, and_true]
  exact ⟨⟨_, rfl, by decide +kernel⟩, ⟨_, rfl, by decide +kernel⟩, ⟨_, rfl, by decide +kernel⟩,
    _, rfl, by decide +kernel⟩

theorem witness_ReadRegisterPairCombines :
    wireSum (st 0 0 0 0).cfg.val 0x0010#16 ≤ 0xFFFF ∧ wireSum (st 0 0 0 0).cfg.val 0x0011#16 ≤ 0xFFFF ∧
    (List.replicate 254 0#8).length ≤ 254 ∧
    ((0x0010#16, 0x0011#16), ((1 : ℚ), (1 : ℚ))) ∈ (st 0 0 0 0).cfg.val.pairTable ∧
    ∀ e ∈ (st 0 0 0 0).cfg.val.pairTable, e.1 ≠ (0x0000#16, 0x0001#16) := by decide +kernel

/-- The answers are one byte too short, just long enough, and as long as `RXBUF`. -/
theorem witness_PowerSupplySequences :
    (∃ t, startOp 0x10#8 ((((st 0 0 0 0).setA 0 22000000000).setA 1 200000000).setA 2 ((0#8).setWidth 64)) =
      .next t ∧ t.err = 0#4 ∧ (fun _ => Exchange.absent) (⟨.ps, t.txBytes⟩ : Message) ≠ .sendFailed) ∧
    (List.replicate 35 0#8).length < (st 0 0 0 0).cfg.val.respMinLen ∧
    (∀ n ∈ [36, 256], (st 0 0 0 0).cfg.val.respMinLen ≤ (List.replicate n 7#8).length ∧
      (List.replicate n 7#8).length ≤ 256) ∧
    (rx (List.replicate 36 7#8)).cfg = (st 0 0 0 0).cfg ∧
    (rx (List.replicate 36 7#8)).rxlen.toNat = (List.replicate 36 7#8).length ∧
    (∀ k < 36, (List.replicate 36 7#8)[k]? = some ((rx (List.replicate 36 7#8)).rxByte k)) ∧
    ∃ w, exec .parseOutputResponse (rx (List.replicate 36 7#8)) = .next w :=
  ⟨⟨_, rfl, by decide +kernel, by decide +kernel⟩, by decide +kernel, by decide +kernel, rfl, by decide +kernel,
    by decide +kernel, _, rfl⟩

theorem witness_ErrorsArePrecise :
    ∃ t, exec .tc16Encode (st 0x8000 0 0 0) = .next t ∧ t.err ≠ 0#4 := ⟨_, rfl, by decide +kernel⟩

theorem witness_NothingStopsTheBlock :
    ∀ x ∈ (hosted [.writeOp 0xFF#8, .writeRx 255 1, .read (.tx 255), .reset]).host, x.wellFormed = true := by
  decide

theorem witness_AbsentInputIsAnError : (st 0 0 0 0).rxlen = 0#16 := rfl

theorem witness_HostReadsReturnWhatIsHeld : 0 < 256 ∧ 255 < 256 := by decide

theorem witness_EveryStepKeepsStatesLegal :
    (hosted [.writeOp 0x11#8]).Inv ∧ ∃ t, step (hosted [.writeOp 0x11#8]) = .next t :=
  ⟨{ txCanonical := by decide +kernel, rxCanonical := by decide +kernel, txLength := by decide +kernel,
     txWritten := by decide +kernel, reserved := rfl, noErrorInfo := fun _ => rfl,
     explained := fun h => by simp [hosted, st, State.reset, State.done] at h,
     untouched := fun _ => ⟨rfl, rfl, rfl, rfl, rfl, rfl⟩ }, _, rfl⟩

end Sys2Proof.Tests
end

/-! ### Proofs for 00_scope.md: the primitives, and the frame of an operation -/

namespace Sys2Proof.Machine

/-! #### `be_uint` and `be_bytes` are inverse (R4, R5) -/

/-- `be_bytes` sees a value only modulo `256^n`. -/
theorem beBytes_add_mul_pow (n v c : Nat) : beBytes n (v + c * 256 ^ n) = beBytes n v := by
  induction n generalizing c with
  | zero => rfl
  | succ n ih =>
    have hpow : c * 256 ^ (n + 1) = c * 256 * 256 ^ n := by ring
    have hhead : BitVec.ofNat 8 (v / 256 ^ n + c * 256) = BitVec.ofNat 8 (v / 256 ^ n) :=
      BitVec.eq_of_toNat_eq (by simp)
    rw [hpow, beBytes, beBytes, ih, Nat.add_mul_div_right _ _ (by positivity), hhead]

/-- `be_bytes` writes back what `be_uint` reads. -/
theorem beBytes_beUint (bs : List Byte) : beBytes bs.length (beUint bs) = bs := by
  induction bs with
  | nil => rfl
  | cons b bs ih =>
    have hdiv : beUint (b :: bs) / 256 ^ bs.length = b.toNat := by
      rw [beUint, Nat.mul_comm, Nat.mul_add_div (by positivity), Nat.div_eq_of_lt (beUint_lt bs), Nat.add_zero]
    have htail : beBytes bs.length (beUint (b :: bs)) = bs := by
      rw [beUint, Nat.add_comm, beBytes_add_mul_pow, ih]
    rw [List.length_cons, beBytes, hdiv, htail, BitVec.ofNat_toNat, BitVec.setWidth_eq]

/-- `be_uint` reads back what `be_bytes` writes, modulo `256^n`. -/
theorem beUint_beBytes (n v : Nat) : beUint (beBytes n v) = v % 256 ^ n := by
  induction n with
  | zero => simp [beBytes, beUint, Nat.mod_one]
  | succ n ih =>
    have hhead : (BitVec.ofNat 8 (v / 256 ^ n)).toNat = v / 256 ^ n % 256 := BitVec.toNat_ofNat ..
    rw [beBytes, beUint, ih, beBytes_length, hhead, Nat.mod_pow_succ]
    ring

/-- The two bytes of a word are its high and its low half. -/
theorem beBytes_word (w : Word) : beBytes 2 w.toNat = [w.extractLsb' 8 8, w.extractLsb' 0 8] := by
  have hhigh : BitVec.ofNat 8 (w.toNat / 256) = w.extractLsb' 8 8 :=
    BitVec.eq_of_toNat_eq (by simp [Nat.shiftRight_eq_div_pow])
  have hlow : BitVec.ofNat 8 w.toNat = w.extractLsb' 0 8 := BitVec.eq_of_toNat_eq (by simp)
  rw [beBytes_two, hhigh, hlow]

/-- Settles O1: `be_bytes` and `be_uint` are inverse to each other on the sequences of `n` bytes. -/
theorem bigEndianBytesAreUnique : Obligations.BigEndianBytesAreUnique := by
  refine ⟨fun n v hv => ⟨beBytes_length n v, ?_, fun bs hlen hval => ?_⟩, beBytes_word⟩
  · rw [beUint_beBytes, Nat.mod_eq_of_lt hv]
  · rw [← hlen, ← hval, beBytes_beUint]

/-! #### Quantities and their units (R7, R8) -/

/-- `Q` rounds down by less than one unit of 10^-8. -/
theorem quantise_bounds (x : ℚ) :
    (quantise x : ℚ) / 10 ^ 8 ≤ x ∧ x < (quantise x : ℚ) / 10 ^ 8 + 1 / 10 ^ 8 := by
  have hle : (quantise x : ℚ) ≤ x * 100000000 := Int.floor_le _
  have hlt : x * 100000000 < quantise x + 1 := Int.lt_floor_add_one _
  constructor <;> linarith

/-- `Q` loses nothing on a quantity that a register stands for. -/
theorem quantise_physVal (m : Reg64) : quantise (physVal m) = m.toInt := by
  rw [quantise, physVal, div_mul_cancel₀ _ (by norm_num), Int.floor_intCast]

/-- Settles O2: the floor's two bounds, scaled by one unit, and its value on whole units. -/
theorem quantisationOfQuantities : Obligations.QuantisationOfQuantities :=
  ⟨fun m => by rw [physVal]; norm_num, quantise_bounds, quantise_physVal⟩

/-! #### What an operation leaves alone, however it ends (R11 to R13, R18, R19) -/

section
variable {i : Instr} {s : State} {x : Except OpError State}

/-- Only `R`, `TXBUF`, `TXLEN`, `STATUS` and `ERRINFO` can differ after an operation. -/
theorem Ends.finish_eq (h : Ends i s x) :
    s.finish x = { s with r := (s.finish x).r, txbuf := (s.finish x).txbuf, txlen := (s.finish x).txlen,
                          status := (s.finish x).status, errinfo := (s.finish x).errinfo } := by
  cases h with
  | raised => rfl
  | completed hw => cases hw <;> rfl

/-- A result register that is not the operation's own keeps its value (R12). -/
theorem Ends.finish_r_other (h : Ends i s x) {k : Fin 12} (hk : k ∉ resultsOf i) :
    (s.finish x).r[k] = s.r[k] := by
  cases h with
  | raised => rfl
  | completed hw =>
    cases hw with
    | registers r hr => exact hr k hk
    | buffer => rfl

/-- An operation that is no build leaves `TXBUF` and `TXLEN` alone (R13). -/
theorem Ends.finish_tx_of_not_builds (h : Ends i s x) (hb : builds i = false) :
    (s.finish x).txbuf = s.txbuf ∧ (s.finish x).txlen = s.txlen := by
  cases h with
  | raised => exact ⟨rfl, rfl⟩
  | completed hw =>
    cases hw with
    | registers => exact ⟨rfl, rfl⟩
    | buffer bytes hlen hbuild => simp [hb] at hbuild

/-- The length of a built format is representable in `TXLEN` (R54). -/
theorem toNat_txlen_send {bytes : List Byte} (h : bytes.length ∈ [2, 8, s.cfg.val.setLen]) :
    (s.send bytes).txlen.toNat = bytes.length := by
  have hset : s.cfg.val.setLen ≤ 256 := s.cfg.setLen_le
  simp only [List.mem_cons, List.not_mem_nil, or_false] at h
  rw [State.send_txlen, BitVec.toNat_ofNat, Nat.mod_eq_of_lt (by omega)]

/-- `TXBUF` from the new `TXLEN` on keeps its bytes, whatever the operation (R18). -/
theorem Ends.finish_txByte_of_le (h : Ends i s x) {j : Nat} (hj : (s.finish x).txlen.toNat ≤ j) :
    (s.finish x).txByte j = s.txByte j := by
  cases h with
  | raised => exact State.txByte_congr rfl rfl j
  | completed hw =>
    cases hw with
    | registers => exact State.txByte_congr rfl rfl j
    | buffer bytes hlen =>
      have hle : bytes.length ≤ j := toNat_txlen_send hlen ▸ hj
      calc (s.finish (.ok (s.send bytes))).txByte j
          = (s.send bytes).txByte j := State.txByte_congr rfl rfl j
        _ = s.txByte j := by rw [State.txByte_send, dif_neg (Nat.not_lt.2 hle)]

end

/-- Settles O5: the frame of each way an operation can end, by `exec_ends`. -/
theorem operationsWriteOnlyTheirResults : Obligations.OperationsWriteOnlyTheirResults := by
  intro i s t ht
  obtain ⟨x, hx, hexec⟩ := exec_ends i s
  obtain rfl : s.finish x = t := Host.Outcome.next.inj (hexec.symm.trans ht)
  refine ⟨hx.finish_eq, fun k hk => hx.finish_r_other hk, fun hb => ?_,
    fun _ j hj => hx.finish_txByte_of_le hj⟩
  obtain ⟨hbuf, hlen⟩ := hx.finish_tx_of_not_builds hb
  obtain ⟨-, -, -, -, -, hepoch, -⟩ := hx.frame
  exact ⟨hlen, State.txByte_congr hbuf hepoch⟩

end Sys2Proof.Machine

/-! ### Proofs for 10_state.md: configuration, reset, the host's port, how operations end, legal states -/

namespace Sys2Proof

/-! #### A configuration that is built (R24) -/

/-- Building succeeds with exactly the configuration it was given. -/
theorem Config.val_of_build {c : Config} {b : Config.Built} (h : Config.build c = some b) : b.val = c := by
  unfold Config.build at h
  split at h
  · cases h; rfl
  · cases h

/-- R24 (d): the unity code. -/
theorem Config.Built.unity (c : Config.Built) : c.val.pfCode.unity = 0x0000#16 := by
  obtain ⟨-, -, -, hunity, -⟩ := c.clauses
  simpa [Config.unityIsZero] using hunity

/-- R24 (e): the excluded pair stands in no entry of `PAIR_TABLE`. -/
theorem Config.Built.zeroOne_not_mem (c : Config.Built) (v : ℚ × ℚ) :
    ((0x0000#16, 0x0001#16), v) ∉ c.val.pairTable := by
  obtain ⟨-, -, -, -, hpair, -⟩ := c.clauses
  intro hmem
  have hne := List.all_eq_true.1 hpair _ hmem
  simp at hne

/-- R24 (g): a band is an interval, and its label is a power factor. -/
theorem Config.Built.bands (c : Config.Built) :
    ∀ e ∈ c.val.pfBands, e.lo ≤ e.hi ∧ e.label ≠ .unknown := by
  obtain ⟨-, -, -, -, -, -, hbands, -⟩ := c.clauses
  intro e he
  have hband := List.all_eq_true.1 hbands e he
  simp only [Bool.and_eq_true, decide_eq_true_eq, bne_iff_ne] at hband
  obtain ⟨⟨hle, -⟩, hlabel⟩ := hband
  exact ⟨hle, hlabel⟩

namespace Machine

/-- The bound of R24 (f) as the spec writes it. -/
theorem physBound_literal_eq : (9223372036854775808 / 100000000 : ℚ) = 2 ^ 63 / 10 ^ 8 := by norm_num

/-- Settles O3: each clause of R24, from the proof that a built configuration carries. -/
theorem buildRefusesIllFormedConfigurations : Obligations.BuildRefusesIllFormedConfigurations := by
  intro c b hb
  obtain rfl : b.val = c := Config.val_of_build hb
  obtain ⟨hpre, -, hcmd, htail, htrailer, -, hpoll, -⟩ := b.lengths
  obtain ⟨hV, hI, hPf, hmin⟩ := b.response
  have hwidths : ∀ w ∈ [b.val.respWV, b.val.respWI, b.val.respWPf], 1 ≤ w ∧ w ≤ 4 := by
    simp [hV, hI, hPf]
  exact ⟨rfl, ⟨rfl, b.setLen_eq, b.setLen_le⟩, ⟨hpre, hcmd, htail, htrailer, hpoll, trailerOf_length b⟩,
    ⟨hwidths, hmin⟩, b.unity, b.zeroOne_not_mem, physBound_literal_eq ▸ b.scales, b.bands⟩

/-! #### No `PHYS` result wraps (R20) -/

/-- A quantity within the bound of R24 (f) is written to its register whole. -/
theorem toInt_physBits_of_abs_lt {x : ℚ} (h : |x| < 2 ^ 63 / 10 ^ 8) :
    (physBits x).toInt = ⌊x * 10 ^ 8⌋ := by
  obtain ⟨hlo, hhi⟩ := abs_lt.1 h
  have hq : quantise x = ⌊x * 10 ^ 8⌋ := by norm_num [quantise]
  rw [← hq]
  apply toInt_physBits <;> rw [hq]
  · exact Int.le_floor.2 (by push_cast; linarith)
  · exact Int.floor_lt.2 (by push_cast; linarith)

/-- A word times a factor is bounded by the largest word times it. -/
theorem abs_natCast_mul_le {n k : Nat} (h : n ≤ k) (x : ℚ) : |(n : ℚ) * x| ≤ |(k : ℚ) * x| := by
  rw [abs_mul, abs_mul, Nat.abs_cast, Nat.abs_cast]
  gcongr

/-- The Register Pair rule stays within what R24 (f) bounds. -/
theorem abs_pairValue_le (m l : ℚ) (fine coarse : Word) :
    |pairValue m l fine coarse| ≤ |65535 * m| + |255 * l / 256| := by
  have hcoarse : |(coarse.toNat : ℚ) * m| ≤ |65535 * m| :=
    abs_natCast_mul_le (k := 65535) (Nat.le_of_lt_succ coarse.isLt) m
  have hfine : |((fine.extractLsb' 8 8).toNat : ℚ) * (l / 256)| ≤ |255 * (l / 256)| :=
    abs_natCast_mul_le (k := 255) (Nat.le_of_lt_succ (fine.extractLsb' 8 8).isLt) (l / 256)
  calc |pairValue m l fine coarse|
      = |(coarse.toNat : ℚ) * m + ((fine.extractLsb' 8 8).toNat : ℚ) * (l / 256)| := by
        rw [pairValue, mul_div_assoc]
    _ ≤ |(coarse.toNat : ℚ) * m| + |((fine.extractLsb' 8 8).toNat : ℚ) * (l / 256)| := abs_add_le _ _
    _ ≤ |65535 * m| + |255 * l / 256| := by rw [mul_div_assoc]; gcongr

/-- Dividing by a natural number that is not zero makes a quantity no larger. -/
theorem div_natCast_le {x : ℚ} (hx : 0 ≤ x) {n : Nat} (hn : n ≠ 0) : 0 ≤ x / n ∧ x / n ≤ x :=
  ⟨by positivity, div_le_self hx (by exact_mod_cast Nat.one_le_iff_ne_zero.2 hn)⟩

/-- No divisor makes a raw integer larger (R46, R61). -/
theorem divideBy_bounds (c : Config.Built) (raw : Nat) (d : Divisor) :
    0 ≤ divideBy c.val raw d ∧ divideBy c.val raw d ≤ raw := by
  obtain ⟨hV, hI1, hI2, hfactor⟩ := c.divisors
  have hraw : (0 : ℚ) ≤ raw := by positivity
  cases d with
  | ofClass k => exact div_natCast_le hraw (hfactor k)
  | voltage => exact div_natCast_le hraw hV
  | current =>
    obtain ⟨h0, h1⟩ := div_natCast_le hraw hI1
    obtain ⟨h0', h2⟩ := div_natCast_le h0 hI2
    exact ⟨h0', h2.trans h1⟩

/-- Settles O13: each quantity lies within the bound of R24 (f). -/
theorem physResultsNeverWrap : Obligations.PhysResultsNeverWrap := by
  intro c
  obtain ⟨hpair, hdirect⟩ := c.scales
  rw [physBound_literal_eq] at hpair hdirect
  refine ⟨fun a1 a2 m l fine coarse h => ?_, fun a m raw h => ?_, fun raw d h => ?_⟩
  · have hbound := hpair ((a1, a2), (m, l)) (mem_of_lookup h)
    exact toInt_physBits_of_abs_lt ((abs_pairValue_le m l fine coarse).trans_lt hbound)
  · have hle : |(raw.toNat : ℚ) * m| ≤ |65535 * m| :=
      abs_natCast_mul_le (k := 65535) (Nat.le_of_lt_succ raw.isLt) m
    exact toInt_physBits_of_abs_lt (hle.trans_lt (hdirect (a, m) (mem_of_lookup h)))
  · obtain ⟨h0, hle⟩ := divideBy_bounds c raw d
    have hraw : (raw : ℚ) < 2 ^ 32 := by exact_mod_cast h
    apply toInt_physBits_of_abs_lt
    rw [abs_of_nonneg h0]
    calc divideBy c.val raw d ≤ raw := hle
      _ < 2 ^ 32 := hraw
      _ < 2 ^ 63 / 10 ^ 8 := by norm_num

/-! #### Label codes (R21) -/

/-- Settles O14, label by label. -/
theorem labelCodesAgree : Obligations.LabelCodesAgree := by
  refine ⟨rfl, rfl, rfl, rfl, rfl, rfl, fun l => ?_⟩
  cases l <;> rfl

/-! #### One host access (R11 to R19) -/

/-- Settles O6: each of the five kinds of write is served without effect. -/
theorem hostWritesOfReadOnlyStateAreIgnored : Obligations.HostWritesOfReadOnlyStateAreIgnored := by
  intro s x rest hhost hx
  rw [step_cons hhost]
  rcases hx with ⟨k, v, rfl⟩ | ⟨v, rfl⟩ | ⟨v, rfl⟩ | ⟨v, rfl⟩ | ⟨i, v, hi, rfl⟩
  · rfl
  · rfl
  · rfl
  · rfl
  · exact accessByte_of_lt hi _

/-- Settles O7: the write is one `Vector.set`. -/
theorem hostWritesAnOperandRegister : Obligations.HostWritesAnOperandRegister := by
  intro s k v rest hhost
  refine ⟨_, step_cons hhost, rfl, Vector.getElem_set_self _, fun j hj => ?_⟩
  exact Vector.getElem_set_ne k.isLt j.isLt fun h => hj (Fin.ext h.symm)

/-- A byte of `RXBUF` after one was written there. -/
theorem State.rxByte_write (s : State) (i j : Nat) (v : Byte) :
    State.rxByte { s with rxbuf := Memory.write s.rxbuf i v } j = if j = i then v else s.rxByte j := by
  unfold State.rxByte Memory.read
  split
  · next h => simp [h]
  · next h => simp [Memory.find_write_other _ h]

/-- Settles O8: a byte is read back where it was written, and nowhere else. -/
theorem hostWritesTheReceiveBuffer : Obligations.HostWritesTheReceiveBuffer := by
  refine ⟨fun s i v rest hi hhost => ?_, fun s v rest hhost => step_cons hhost⟩
  refine ⟨_, (step_cons hhost).trans (accessByte_of_lt hi _), rfl, ?_, fun j hj => ?_⟩
  · exact (State.rxByte_write { s with host := rest } i i v).trans (if_pos rfl)
  · exact (State.rxByte_write { s with host := rest } i j v).trans (if_neg hj)

/-- Settles O9: `OP` is written, then the operation runs. -/
theorem stepRunsTheDecodedOperation : Obligations.StepRunsTheDecodedOperation := by
  intro s c i rest hhost hdecode
  rw [step_cons hhost, serve, startOp, hdecode]

/-- A read of at most 64 bits loses none of them. -/
theorem toNat_hostRead {n : Nat} (h : n ≤ 64) (v : BitVec n) :
    (some (v.setWidth 64 : Reg64)).map BitVec.toNat = some v.toNat := by
  rw [Option.map_some, BitVec.toNat_setWidth_of_le h]

/-- Settles O60: every register, length and byte is at most 64 bits wide. -/
theorem hostReadsReturnWhatIsHeld : Obligations.HostReadsReturnWhatIsHeld := by
  intro s
  refine ⟨fun k => rfl, fun k => rfl, toNat_hostRead (by decide) _, toNat_hostRead (by decide) _,
    toNat_hostRead (by decide) _, toNat_hostRead (by decide) _, toNat_hostRead (by decide) _, fun i hi => ?_⟩
  have hi' : i < Config.bufCap := hi
  rw [State.hostRead, State.hostRead, if_pos hi', if_pos hi']
  exact ⟨toNat_hostRead (by decide) _, toNat_hostRead (by decide) _⟩

/-! #### What one step can do, said once -/

/-- What serving an access does to the block: the host's own registers and `RXBUF` take what it writes, an
operation ends, a reserved code is reported, or the block is reset. -/
inductive Served (s : State) : HostAction → State → Prop where
  | access {x : HostAction} (hop : ∀ c, x ≠ .writeOp c) (hreset : x ≠ .reset) (a : Vector Reg64 4)
      (rx : Memory) (n : Word) (hrx : Memory.wf s.rxbuf → Memory.wf rx) :
      Served s x { s with a := a, rxbuf := rx, rxlen := n }
  | ended {c : Byte} {i : Instr} {r : Except OpError State} (hc : decode c = .ok i)
      (hr : Ends i { s with op := c } r) : Served s (.writeOp c) (State.finish { s with op := c } r)
  | reserved {c : Byte} (hc : decode c = .error (.reservedOpcode c)) :
      Served s (.writeOp c) (State.raise { s with op := c } (.illegalOp c))
  | reset : Served s .reset s.applyReset

section
variable {s t u : State}

/-- An access that changes nothing is served so. -/
theorem Served.ignored {x : HostAction} (hop : ∀ c, x ≠ .writeOp c) (hreset : x ≠ .reset) :
    Served s x s :=
  .access hop hreset s.a s.rxbuf s.rxlen id

/-- An access to a buffer byte answers a state only where the byte exists (R28). -/
theorem accessByte_eq_next {i : Nat} (h : accessByte i u = .next t) : i < Config.bufCap ∧ t = u := by
  unfold accessByte at h
  split at h
  · next hi => exact ⟨hi, (Host.Outcome.next.inj h).symm⟩
  · cases h

/-- An access that only names something leaves the block as it was. -/
theorem accessOnly_eq_next {y : HostReg} (h : accessOnly y s = .next t) : t = s := by
  cases y with
  | tx i => exact (accessByte_eq_next h).2
  | rx i => exact (accessByte_eq_next h).2
  | _ => exact (Host.Outcome.next.inj h).symm

/-- What serving an access can do. -/
theorem served_of_serve {x : HostAction} (h : serve x s = .next t) : Served s x t := by
  cases x with
  | read y =>
    obtain rfl := accessOnly_eq_next h
    exact .ignored (by simp) (by simp)
  | writeA k v =>
    obtain rfl := Host.Outcome.next.inj h
    exact .access (by simp) (by simp) (s.a.set k v) s.rxbuf s.rxlen id
  | writeTx i v =>
    obtain ⟨-, rfl⟩ := accessByte_eq_next h
    exact .ignored (by simp) (by simp)
  | writeRx i v =>
    obtain ⟨hi, rfl⟩ := accessByte_eq_next h
    exact .access (by simp) (by simp) s.a _ s.rxlen fun hm => Memory.wf_write hm hi v
  | writeRxlen v =>
    obtain rfl := Host.Outcome.next.inj h
    exact .access (by simp) (by simp) s.a s.rxbuf v id
  | writeOp c =>
    rcases startOp_cases c s with ⟨i, r, hc, hr, hstart⟩ | ⟨hc, hstart⟩
    · obtain rfl := Host.Outcome.next.inj (hstart.symm.trans h)
      exact .ended hc hr
    · obtain rfl := Host.Outcome.next.inj (hstart.symm.trans h)
      exact .reserved hc
  | reset =>
    obtain rfl := Host.Outcome.next.inj h
    exact .reset
  | _ =>
    obtain rfl := Host.Outcome.next.inj h
    exact .ignored (by simp) (by simp)

/-- What a step can do: nothing when no access is pending, else serve the oldest one (R14, R38). -/
theorem step_cases (h : step s = .next t) :
    s.host = [] ∧ t = s ∨
    ∃ x rest, s.host = x :: rest ∧ Served { s with host := rest } x t := by
  cases hhost : s.host with
  | nil => exact .inl ⟨rfl, (Host.Outcome.next.inj ((step_nil hhost).symm.trans h)).symm⟩
  | cons x rest => exact .inr ⟨x, rest, rfl, served_of_serve ((step_cons hhost).symm.trans h)⟩

end

/-- Settles O10: `OP` changes only where an operation starts and at a reset. -/
theorem opHoldsTheLastValueWritten : Obligations.OpHoldsTheLastValueWritten := by
  refine ⟨rfl, fun s t h => ?_⟩
  rcases step_cases h with ⟨hhost, rfl⟩ | ⟨x, rest, hhost, hserved⟩
  · rw [hhost]
  · rw [hhost]
    cases hserved with
    | access hop hreset =>
      split
      · next hx => cases hx; exact absurd rfl (hop _)
      · next hx => cases hx; exact absurd rfl hreset
      · rfl
    | ended hc hr =>
      obtain ⟨-, -, hop, -⟩ := hr.frame
      simp [State.hostRead, hop]
    | reserved hc => simp [State.hostRead]
    | reset => simp [State.hostRead]

/-! #### How an operation reports its end (R16, R17) -/

section
variable {i : Instr} {s : State} {r : Except OpError State}

theorem Ends.done_finish (h : Ends i s r) : (s.finish r).done = true := by
  cases h with
  | completed hw => exact State.done_complete _
  | raised he => exact State.done_raise _ _

theorem Ends.statusReserved_finish (h : Ends i s r) : (s.finish r).statusReserved = 0#3 := by
  cases h with
  | completed hw => exact State.statusReserved_complete _
  | raised he => exact State.statusReserved_raise _ _

theorem Ends.err_finish (h : Ends i s r) : (s.finish r).err = 0#4 ∨ (s.finish r).err ∈ errorsOf i := by
  cases h with
  | completed hw => exact .inl (State.err_complete _)
  | raised he => exact .inr (by simpa using he)

theorem Ends.errinfo_finish (h : Ends i s r) (h0 : (s.finish r).err = 0#4) : (s.finish r).errinfo = 0#32 := by
  cases h with
  | completed hw => rfl
  | raised he => exact absurd (by simpa using h0) (errorCode_ne_zero _)

end

/-- Settles O11, from the two ways an operation can end. -/
theorem everyOperationReportsItsEnd : Obligations.EveryOperationReportsItsEnd := by
  intro i s
  obtain ⟨r, hr, hexec⟩ := exec_ends i s
  exact ⟨_, hexec, hr.done_finish, hr.statusReserved_finish, hr.err_finish, hr.errinfo_finish⟩

/-- Settles O12: the block writes `STATUS` only where an operation ends, and then `DONE` is set. -/
theorem doneIsClearedOnlyByReset : Obligations.DoneIsClearedOnlyByReset := by
  intro s t h hdone hnoreset
  rcases step_cases h with ⟨-, rfl⟩ | ⟨x, rest, hhost, hserved⟩
  · exact hdone
  · cases hserved with
    | access => exact hdone
    | ended hc hr => exact hr.done_finish
    | reserved hc => exact State.done_raise _ _
    | reset => exact absurd hhost (hnoreset rest)

/-! #### Reset (R25, R105) -/

/-- A state that is `State.reset` but for the fields that have no reset value. -/
theorem atResetValues_of_reset (cfg : Config.Built) (epoch : Nat) (host : List HostAction) :
    State.AtResetValues { State.reset with cfg := cfg, epoch := epoch, host := host } where
  operands _ := Vector.getElem_replicate _
  results _ := Vector.getElem_replicate _
  op := rfl
  status := rfl
  errinfo := rfl
  txlen := rfl
  rxlen := rfl
  txbuf _ := rfl
  rxbuf _ := rfl

/-- Settles O4: both resets are `State.reset` in every field that has a reset value. -/
theorem resetPutsEveryResetValue : Obligations.ResetPutsEveryResetValue :=
  ⟨atResetValues_of_reset _ _ _, fun _ _ hhost =>
    ⟨_, step_cons hhost, atResetValues_of_reset _ _ _, rfl, rfl⟩⟩

theorem State.statusReserved_reset : State.reset.statusReserved = 0#3 := by decide

theorem State.done_reset : State.reset.done = false := by decide

/-- Reset leaves a legal state, whatever the configuration. -/
theorem inv_of_reset (cfg : Config.Built) (epoch : Nat) (host : List HostAction) :
    State.Inv { State.reset with cfg := cfg, epoch := epoch, host := host } where
  txCanonical := Memory.wf_nil
  rxCanonical := Memory.wf_nil
  txLength := List.mem_cons_self
  txWritten i hi := absurd hi (Nat.not_lt_zero i)
  reserved := State.statusReserved_reset
  noErrorInfo _ := rfl
  explained h := absurd (State.done_reset.symm.trans h) Bool.false_ne_true
  untouched _ := ⟨rfl, rfl, rfl, rfl, rfl, rfl⟩

/-- Settles O58: `State.reset` is the reset of its own configuration, epoch and pending accesses. -/
theorem resetStateIsLegal : Obligations.ResetStateIsLegal := inv_of_reset _ _ _

/-! #### Every step keeps the states legal (R15 to R18, R28, R54, R92) -/

/-- What the invariant says of `TXBUF` and `TXLEN`, the part a build has to establish. -/
structure State.TxLegal (s : State) : Prop where
  canonical : Memory.wf s.txbuf
  length    : s.txlen.toNat ∈ [0, 2, 8, s.cfg.val.setLen]
  written   : ∀ j < s.txlen.toNat, (Memory.find s.txbuf j).isSome

section
variable {i : Instr} {s : State} {r : Except OpError State}

theorem State.Inv.txLegal (h : s.Inv) : s.TxLegal := ⟨h.txCanonical, h.txLength, h.txWritten⟩

/-- A build leaves `TXBUF` canonical, and writes every byte below the new `TXLEN`. -/
theorem State.TxLegal.send (h : s.TxLegal) {bytes : List Byte} (hlen : bytes.length ∈ [2, 8, s.cfg.val.setLen]) :
    (s.send bytes).TxLegal := by
  have htxlen : (s.send bytes).txlen.toNat = bytes.length := toNat_txlen_send hlen
  have hfits : bytes.length ≤ 256 := by
    have hset := s.cfg.setLen_le
    simp only [List.mem_cons, List.not_mem_nil, or_false] at hlen
    omega
  refine ⟨Memory.wf_writeBytes h.canonical (by simpa [Config.bufCap] using hfits), ?_, fun j hj => ?_⟩
  · rw [htxlen]
    exact List.mem_cons_of_mem _ hlen
  · rw [htxlen] at hj
    simp [Memory.find_writeBytes, hj]

/-- However an operation ends, `TXBUF` and `TXLEN` stay legal. -/
theorem Ends.txLegal_finish (h : Ends i s r) (hs : s.TxLegal) : (s.finish r).TxLegal := by
  cases h with
  | raised he => exact ⟨hs.canonical, hs.length, hs.written⟩
  | completed hw =>
    cases hw with
    | registers => exact ⟨hs.canonical, hs.length, hs.written⟩
    | buffer bytes hlen =>
      obtain ⟨hcanonical, hlength, hwritten⟩ := hs.send hlen
      exact ⟨hcanonical, hlength, hwritten⟩

/-- The operation that `OP` names explains the `STATUS` it ends with. -/
theorem Ends.statusExplained_finish (h : Ends i s r) (hop : decode s.op = .ok i) :
    (s.finish r).StatusExplained := by
  obtain ⟨-, -, hframe, -⟩ := h.frame
  rw [State.StatusExplained, hframe, hop]
  exact h.err_finish

/-- A reserved code explains its `IllegalOp` (R44). -/
theorem statusExplained_raise_illegalOp (hop : decode s.op = .error (.reservedOpcode s.op)) :
    (s.raise (.illegalOp s.op)).StatusExplained := by
  rw [State.StatusExplained, State.raise_op, hop]
  exact ⟨State.err_raise _ _, rfl⟩

variable {c : Byte}

/-- An operation started in a legal state ends in a legal one. -/
theorem State.Inv.finish (hs : s.Inv) (hc : decode c = .ok i) (hr : Ends i { s with op := c } r) :
    (State.finish { s with op := c } r).Inv := by
  obtain ⟨-, -, -, hrx, -⟩ := hr.frame
  have htx : State.TxLegal { s with op := c } := ⟨hs.txCanonical, hs.txLength, hs.txWritten⟩
  obtain ⟨hcanonical, hlength, hwritten⟩ := hr.txLegal_finish htx
  exact {
    txCanonical := hcanonical
    rxCanonical := by rw [hrx]; exact hs.rxCanonical
    txLength := hlength
    txWritten := hwritten
    reserved := hr.statusReserved_finish
    noErrorInfo := hr.errinfo_finish
    explained := fun _ => hr.statusExplained_finish hc
    untouched := fun h => absurd (h.symm.trans hr.done_finish) Bool.false_ne_true }

/-- A reserved code written in a legal state leaves a legal one. -/
theorem State.Inv.raise_illegalOp (hs : s.Inv) (hc : decode c = .error (.reservedOpcode c)) :
    (State.raise { s with op := c } (.illegalOp c)).Inv where
  txCanonical := hs.txCanonical
  rxCanonical := hs.rxCanonical
  txLength := hs.txLength
  txWritten := hs.txWritten
  reserved := State.statusReserved_raise _ _
  noErrorInfo h := absurd ((State.err_raise _ _).symm.trans h) (errorCode_ne_zero _)
  explained _ := statusExplained_raise_illegalOp (s := { s with op := c }) hc
  untouched h := absurd (h.symm.trans (State.done_raise _ _)) Bool.false_ne_true

/-- The invariant speaks of what the host writes only through the form of `RXBUF`. -/
theorem State.Inv.access (hs : s.Inv) (a : Vector Reg64 4) {rx : Memory} (hrx : Memory.wf rx) (n : Word)
    (host : List HostAction) : State.Inv { s with a := a, rxbuf := rx, rxlen := n, host := host } where
  txCanonical := hs.txCanonical
  rxCanonical := hrx
  txLength := hs.txLength
  txWritten := hs.txWritten
  reserved := hs.reserved
  noErrorInfo := hs.noErrorInfo
  explained := hs.explained
  untouched := hs.untouched

/-- Whatever access is served, a legal state stays legal. -/
theorem Served.inv {x : HostAction} {t : State} (h : Served s x t) (hs : s.Inv) : t.Inv := by
  cases h with
  | access hop hreset a rx n hrx => exact hs.access a (hrx hs.rxCanonical) n s.host
  | ended hc hr => exact hs.finish hc hr
  | reserved hc => exact hs.raise_illegalOp hc
  | reset => exact inv_of_reset _ _ _

end

/-- Settles O59: the invariant is kept by every access that a step can serve. -/
theorem everyStepKeepsStatesLegal : Obligations.EveryStepKeepsStatesLegal := by
  intro s t hs h
  rcases step_cases h with ⟨-, rfl⟩ | ⟨x, rest, -, hserved⟩
  · exact hs
  · exact hserved.inv (hs.access s.a hs.rxCanonical s.rxlen rest)

/-! #### An operation's end depends on its operands alone (R26, R45) -/

/-- Two states end an operation alike: at the same error, or with the same results in its own registers, or with
the same bytes built. -/
inductive SameEnd (i : Instr) (s s' : State) : Except OpError State → Except OpError State → Prop where
  | raised (e : OpError) : SameEnd i s s' (.error e) (.error e)
  | registers (r r' : Vector Reg64 12) (h : ∀ k ∈ resultsOf i, r[k] = r'[k]) (hb : builds i = false) :
      SameEnd i s s' (.ok { s with r := r }) (.ok { s' with r := r' })
  | sent (bytes : List Byte) (h : bytes.length ∈ [2, 8, s.cfg.val.setLen]) (hb : resultsOf i = []) :
      SameEnd i s s' (.ok (s.send bytes)) (.ok (s'.send bytes))

section
variable {i : Instr} {s s' : State}

/-- A result register set to the same value agrees, and agreement elsewhere is kept. -/
theorem setR_agree {j k : Fin 12} (v : Reg64) (h : k ≠ j → s.r[k] = s'.r[k]) :
    (s.setR j v).r[k] = (s'.setR j v).r[k] := by
  by_cases hk : k = j
  · subst hk
    exact (Vector.getElem_set_self k.isLt).trans (Vector.getElem_set_self k.isLt).symm
  · rw [setR_other s (Ne.symm hk), setR_other s' (Ne.symm hk), h hk]

theorem sameEnd_setR {j : Fin 12} (hi : resultsOf i = [j]) (hb : builds i = false) (v : Reg64) :
    SameEnd i s s' (.ok (s.setR j v)) (.ok (s'.setR j v)) := by
  refine .registers _ _ (fun k hk => setR_agree v fun hne => ?_) hb
  exact absurd (by simpa [hi] using hk) hne

theorem sameEnd_setR_setR {j l : Fin 12} (hi : resultsOf i = [j, l]) (hb : builds i = false)
    (v w : Reg64) :
    SameEnd i s s' (.ok ((s.setR j v).setR l w)) (.ok ((s'.setR j v).setR l w)) := by
  refine .registers _ _ (fun k hk => setR_agree w fun hl => setR_agree v fun hj => ?_) hb
  rcases List.mem_pair.1 (hi ▸ hk) with h | h
  · exact absurd h hj
  · exact absurd h hl

/-- A test that both states answer alike leads to alike ends if each of its branches does. -/
theorem SameEnd.ite {p p' : Prop} [Decidable p] [Decidable p'] {x x' y y' : Except OpError State}
    (hp : p ↔ p') (hx : p → SameEnd i s s' x x') (hy : ¬ p → SameEnd i s s' y y') :
    SameEnd i s s' (if p then x else y) (if p' then x' else y') := by
  by_cases h : p
  · rw [if_pos h, if_pos (hp.1 h)]
    exact hx h
  · rw [if_neg h, if_neg (mt hp.2 h)]
    exact hy h

/-- Alike ends are seen alike (R16, R17, R26). -/
theorem SameEnd.observed {x x' : Except OpError State} (h : SameEnd i s s' x x') :
    (s.finish x).status = (s'.finish x').status ∧ (s.finish x).errinfo = (s'.finish x').errinfo ∧
    ((s.finish x).err = 0#4 → (∀ k ∈ resultsOf i, (s.finish x).r[k] = (s'.finish x').r[k]) ∧
      (builds i = true → (s.finish x).txlen = (s'.finish x').txlen ∧
        ∀ j < (s.finish x).txlen.toNat, (s.finish x).txByte j = (s'.finish x').txByte j)) := by
  refine ⟨by cases h <;> rfl, by cases h <;> rfl, fun herr => ?_⟩
  cases h with
  | raised e => exact absurd (by simpa using herr) (errorCode_ne_zero e)
  | registers r r' hr hb => exact ⟨hr, fun hbuild => by simp [hb] at hbuild⟩
  | sent bytes hlen hi =>
    refine ⟨by simp [hi], fun _ => ⟨rfl, fun j hj => ?_⟩⟩
    have hlt : j < bytes.length := by
      rw [← toNat_txlen_send hlen]
      exact hj
    rw [(finish_send s bytes).2, (finish_send s' bytes).2, dif_pos hlt, dif_pos hlt]

/-! A parse reads below `RXLEN` only (R19, R68, R75). -/

/-- Each field of a group ends where the group ends, or before. -/
theorem field_le_fieldsEnd (off : Vector Nat 3) (w : Nat) (p : Fin 3) : off[p] + w ≤ fieldsEnd off w := by
  unfold fieldsEnd
  fin_cases p <;> simp

/-- The shortest response reaches to the end of each group of fields (R68). -/
theorem fieldsEnd_le_respMinLen (c : Config) :
    fieldsEnd c.respOffV c.respWV ≤ c.respMinLen ∧ fieldsEnd c.respOffI c.respWI ≤ c.respMinLen ∧
    fieldsEnd c.respOffPf c.respWPf ≤ c.respMinLen := by
  simp [Config.respMinLen]

/-- A field that ends within the received bytes reads the same from both states. -/
theorem SameReceived.memRead_eq (h : SameReceived s s') {off n : Nat} (hfits : off + n ≤ s.rxlen.toNat) :
    s.memRead off n = s'.memRead off n :=
  State.memRead_congr fun k hk => h.2 (off + k) (by omega)

/-- The twelve results as a function of the phases' lanes, with the state itself out of sight. -/
def resultsOfLanes (volts amps : Fin 3 → Reg64) (raw : Fin 3 → Nat) (label : Fin 3 → PfLabel) :
    Vector Reg64 12 :=
  #v[volts 0, volts 1, volts 2, amps 0, amps 1, amps 2,
     BitVec.ofNat 64 (raw 0), BitVec.ofNat 64 (raw 1), BitVec.ofNat 64 (raw 2),
     (labelCode (label 0)).setWidth 64, (labelCode (label 1)).setWidth 64, (labelCode (label 2)).setWidth 64]

theorem responseResults_eq_resultsOfLanes (s : State) :
    responseResults s = resultsOfLanes (laneV s) (laneI s) (laneRaw s) (laneLabel s) := rfl

/-- A response long enough to parse gives both states the same twelve results (R68, R69). -/
theorem SameReceived.responseResults_eq (h : SameReceived s s') (hcfg : s.cfg = s'.cfg)
    (hlong : s.cfg.val.respMinLen ≤ s.rxlen.toNat) : responseResults s = responseResults s' := by
  obtain ⟨hendV, hendI, hendPf⟩ := fieldsEnd_le_respMinLen s.cfg.val
  have hV : laneV s = laneV s' := funext fun p => by
    have hfield := field_le_fieldsEnd s.cfg.val.respOffV s.cfg.val.respWV p
    rw [laneV, h.memRead_eq (hfield.trans (hendV.trans hlong)), hcfg, laneV]
  have hI : laneI s = laneI s' := funext fun p => by
    have hfield := field_le_fieldsEnd s.cfg.val.respOffI s.cfg.val.respWI p
    rw [laneI, h.memRead_eq (hfield.trans (hendI.trans hlong)), hcfg, laneI]
  have hraw : laneRaw s = laneRaw s' := funext fun p => by
    have hfield := field_le_fieldsEnd s.cfg.val.respOffPf s.cfg.val.respWPf p
    rw [laneRaw, h.memRead_eq (hfield.trans (hendPf.trans hlong)), hcfg, laneRaw]
  have hlabel : laneLabel s = laneLabel s' := funext fun p => by rw [laneLabel, hraw, hcfg, laneLabel]
  rw [responseResults_eq_resultsOfLanes, hV, hI, hraw, hlabel, responseResults_eq_resultsOfLanes]

/-- Every operation ends alike in two states that give it the same operands. -/
theorem exec_sameEnd (hcfg : s.cfg = s'.cfg) (h : SameOperands i s s') :
    ∃ x x', SameEnd i s s' x x' ∧ exec i s = .next (s.finish x) ∧ exec i s' = .next (s'.finish x') := by
  cases i with
  | scaleToFixed =>
    have h0 : s.a[0] = s'.a[0] := h
    refine ⟨_, _, ?_, rfl, rfl⟩
    rw [hcfg, h0]
    cases scaleWord s'.cfg.val .a0 (physVal s'.a[0]) with
    | error e => exact .raised e
    | ok v => exact sameEnd_setR_setR rfl rfl _ _
  | fixedToScale =>
    obtain ⟨h0, h1⟩ := h
    refine ⟨_, _, ?_, rfl, rfl⟩
    rw [hcfg, h0, h1]
    cases divisorOfSelector (s'.operand 1 3) with
    | none => exact .raised _
    | some d => exact sameEnd_setR rfl rfl _
  | pfToCode =>
    have h0 : s.operand 0 8 = s'.operand 0 8 := h
    refine ⟨_, _, ?_, rfl, rfl⟩
    rw [hcfg, h0]
    exact sameEnd_setR rfl rfl _
  | decodePf =>
    have h0 : s.operand 0 32 = s'.operand 0 32 := h
    refine ⟨_, _, ?_, rfl, rfl⟩
    rw [hcfg, h0]
    exact sameEnd_setR rfl rfl _
  | buildSetOutput =>
    obtain ⟨h0, h1, h2⟩ := h
    refine ⟨_, _, ?_, rfl, rfl⟩
    rw [hcfg, h0, h1, h2]
    cases scaleWord s'.cfg.val .a0 (physVal s'.a[0]) with
    | error e => exact .raised e
    | ok v =>
      cases scaleWord s'.cfg.val .a1 (physVal s'.a[1]) with
      | error e => exact .raised e
      | ok w => exact .sent _ (by simp [hcfg, setOutputFrame_length]) rfl
  | buildPoll =>
    obtain ⟨-, -, -, -, -, -, hlen, -⟩ := s'.cfg.lengths
    refine ⟨_, _, ?_, rfl, rfl⟩
    rw [hcfg]
    exact .sent _ (by simp [hlen]) rfl
  | parseOutputResponse =>
    have hrx : SameReceived s s' := h
    refine ⟨_, _, ?_, rfl, rfl⟩
    refine .ite (by rw [hrx.1]) (fun _ => .raised _) fun _ =>
      .ite (by rw [hrx.1, hcfg]) (fun _ => ?_) fun hlong => ?_
    · rw [hrx.1, hcfg]
      exact .raised _
    · rw [hrx.responseResults_eq hcfg (Nat.not_lt.1 hlong)]
      exact .registers _ _ (fun _ _ => rfl) rfl
  | wireAddr =>
    have h0 : s.operand 0 16 = s'.operand 0 16 := h
    refine ⟨_, _, ?_, rfl, rfl⟩
    rw [hcfg, h0]
    cases wireAddrOf s'.cfg.val (s'.operand 0 16) with
    | error e => exact .raised e
    | ok w => exact sameEnd_setR rfl rfl _
  | buildRead =>
    have h0 : s.operand 0 16 = s'.operand 0 16 := h
    refine ⟨_, _, ?_, rfl, rfl⟩
    rw [hcfg, h0]
    cases wireAddrOf s'.cfg.val (s'.operand 0 16) with
    | error e => exact .raised e
    | ok w => exact .sent _ (by simp [readPayload_length]) rfl
  | parseRead =>
    have hrx : SameReceived s s' := h
    obtain ⟨-, -, -, -, -, -, hdigits⟩ := s.cfg.layout
    refine ⟨_, _, ?_, rfl, rfl⟩
    refine .ite (by rw [hrx.1]) (fun _ => .raised _) fun _ =>
      .ite (by rw [hrx.1, hcfg]) (fun _ => ?_) fun hlong => ?_
    · rw [hrx.1]
      exact .raised _
    · rw [hrx.memRead_eq (off := s.rxlen.toNat - 2) (n := 2) (by omega), hrx.1]
      exact sameEnd_setR rfl rfl _
  | combinePair =>
    obtain ⟨h0, h1, h2, h3⟩ := h
    refine ⟨_, _, ?_, rfl, rfl⟩
    rw [hcfg, h0, h1, h2, h3]
    cases pairScales s'.cfg.val (s'.operand 0 16) (s'.operand 1 16) with
    | none => exact .raised _
    | some m => exact sameEnd_setR rfl rfl _
  | scaleSingle =>
    obtain ⟨h0, h1⟩ := h
    refine ⟨_, _, ?_, rfl, rfl⟩
    rw [hcfg, h0, h1]
    cases s'.cfg.val.directScale.lookup (s'.operand 0 16) with
    | none => exact sameEnd_setR_setR rfl rfl _ _
    | some m => exact sameEnd_setR_setR rfl rfl _ _
  | buildWrite =>
    obtain ⟨h0, h1⟩ := h
    refine ⟨_, _, ?_, rfl, rfl⟩
    rw [hcfg, h0, h1]
    cases wireAddrOf s'.cfg.val (s'.operand 0 16) with
    | error e => exact .raised e
    | ok w => exact .sent _ (by simp [writePayload_length]) rfl
  | tc16Encode =>
    have h0 : s.a[0] = s'.a[0] := h
    refine ⟨_, _, ?_, rfl, rfl⟩
    rw [h0]
    split
    · exact .raised _
    · exact sameEnd_setR rfl rfl _

end

/-- Settles O15: alike ends give the same status, the same results and the same built bytes. -/
theorem resultsDependOnlyOnOperands : Obligations.ResultsDependOnlyOnOperands := by
  intro i s s' t t' hcfg hop ht ht'
  obtain ⟨x, x', hsame, hexec, hexec'⟩ := exec_sameEnd hcfg hop
  obtain rfl : s.finish x = t := Host.Outcome.next.inj (hexec.symm.trans ht)
  obtain rfl : s'.finish x' = t' := Host.Outcome.next.inj (hexec'.symm.trans ht')
  exact hsame.observed

end Machine
end Sys2Proof

/-! ### Proofs for 20_memory.md: the buffers' bounds, narrow reads, and the wire-address map -/

namespace Sys2Proof.Machine

/-! #### Big-endian reads of adjacent fields (R4, R30) -/

section
variable (s : State) (off m k : Nat)

/-- The bytes of a field are those of its first part, then those of the rest. -/
theorem State.rxBytes_add : s.rxBytes off (m + k) = s.rxBytes off m ++ s.rxBytes (off + m) k := by
  simp [State.rxBytes, List.range_add, Nat.add_assoc]

/-- A field read whole is its first part, moved up by the width of the rest, plus the rest. -/
theorem State.memRead_add :
    s.memRead off (m + k) = s.memRead off m * 256 ^ k + s.memRead (off + m) k := by
  have hlen : (s.rxBytes (off + m) k).length = k := by simp [State.rxBytes]
  rw [State.memRead, State.rxBytes_add, beUint_append, hlen, State.memRead, State.memRead]

/-- Dividing away the low `k` bytes of a field leaves its first part. -/
theorem State.memRead_add_div : s.memRead off (m + k) / 256 ^ k = s.memRead off m := by
  rw [State.memRead_add, Nat.mul_comm, Nat.mul_add_div (by positivity),
    Nat.div_eq_of_lt (s.memRead_lt _ _), Nat.add_zero]

/-- The low `k` bytes of a field are its last part. -/
theorem State.memRead_add_mod : s.memRead off (m + k) % 256 ^ k = s.memRead (off + m) k := by
  rw [State.memRead_add, Nat.mul_add_mod_self_right, Nat.mod_eq_of_lt (s.memRead_lt _ _)]

end

/-- Settles O17: the field is cut once after its top `m` bytes and once before its last `m`. -/
theorem narrowReadsSeeEndsOfAField : Obligations.NarrowReadsSeeEndsOfAField := by
  intro s off n m hmn
  constructor
  · have hcut := s.memRead_add_div off m (n - m)
    rw [Nat.add_sub_of_le hmn] at hcut
    exact hcut.symm
  · have hcut := s.memRead_add_mod off (n - m) m
    rw [Nat.sub_add_cancel hmn, ← Nat.add_sub_assoc hmn] at hcut
    exact hcut.symm

/-! #### The wire-address map (R35 to R37) -/

/-- The two ends of `WIRE_ADDR` (R36, R73): the sum in `R0`, or the error when it is no word. -/
theorem exec_wireAddr_cases (s : State) :
    (wireSum s.cfg.val (s.operand 0 16) ≤ 0xFFFF ∧ exec .wireAddr s =
      .next (s.setR 0 (BitVec.ofNat 64 (wireSum s.cfg.val (s.operand 0 16)))).complete) ∨
    (0xFFFF < wireSum s.cfg.val (s.operand 0 16) ∧
      exec .wireAddr s = .next (s.raise (.addrOverflow (s.operand 0 16)))) := by
  have hexec : exec .wireAddr s = .next (s.finish
      ((wireAddrOf s.cfg.val (s.operand 0 16)).map fun w => s.setR 0 (w.setWidth 64))) := rfl
  rcases wireAddrOf_cases s.cfg.val (s.operand 0 16) with ⟨hle, hw⟩ | ⟨hlt, hw⟩
  · have hwide : (BitVec.ofNat 16 (wireSum s.cfg.val (s.operand 0 16))).setWidth 64 =
        BitVec.ofNat 64 (wireSum s.cfg.val (s.operand 0 16)) :=
      BitVec.eq_of_toNat_eq (by simp; omega)
    refine .inl ⟨hle, ?_⟩
    rw [hexec, hw, ← hwide]
    rfl
  · refine .inr ⟨hlt, ?_⟩
    rw [hexec, hw]
    rfl

/-- The 16-bit slice of an operand register as a number (R45). -/
theorem State.toNat_operand_word (s : State) (k : Fin 4) : (s.operand k 16).toNat = s.a[k].toNat % 65536 :=
  BitVec.toNat_setWidth ..

/-- The map at the source's constants (R35). -/
theorem wireSum_of_atDefaults {cfg : Config} (h : cfg.AtDefaults) (a : Word) :
    wireSum cfg a = if a.toNat = 0x0070 then 0xE070 else a.toNat + 0xD000 := by
  obtain ⟨hbase, hspecialBase, hspecial, -⟩ := h
  have hiff : a = 0x0070#16 ↔ a.toNat = 0x0070 := BitVec.toNat_inj.symm
  rw [wireSum, hbase, hspecialBase, hspecial]
  by_cases ha : a.toNat = 0x0070
  · rw [if_pos (hiff.2 ha), if_pos ha, ha]
    rfl
  · rw [if_neg (mt hiff.1 ha), if_neg ha]
    rfl

/-- Which sums occur at the source's constants (R37): the special address leaves a gap at 0xD070 and joins
0x1070 at 0xE070. -/
theorem wireSum_range_of_atDefaults {cfg : Config} (h : cfg.AtDefaults) (a : Word) :
    (wireSum cfg a ≤ 0xFFFF ↔ a.toNat < 0x3000) ∧ 0xD000 ≤ wireSum cfg a ∧ wireSum cfg a ≠ 0xD070 ∧
    (wireSum cfg a = 0xE070 ↔ a.toNat = 0x0070 ∨ a.toNat = 0x1070) := by
  rw [wireSum_of_atDefaults h]
  split
  · next hspecial => omega
  · next hother => omega

/-- Settles O19: `WIRE_ADDR` completes exactly when the sum is a word, and then leaves the sum in `R0`. -/
theorem wireAddressesThatOccur : Obligations.WireAddressesThatOccur := by
  intro s t a hdefaults ha hexec
  obtain ⟨hfits, hlow, hgap, hjoin⟩ := wireSum_range_of_atDefaults hdefaults (s.operand 0 16)
  rw [State.toNat_operand_word] at hfits hjoin
  rw [ha]
  rcases exec_wireAddr_cases s with ⟨hle, hends⟩ | ⟨hlt, hends⟩
  · obtain rfl := Host.Outcome.next.inj (hends.symm.trans hexec)
    have hr0 : (s.setR 0 (BitVec.ofNat 64 (wireSum s.cfg.val (s.operand 0 16)))).complete.r[0].toNat =
        wireSum s.cfg.val (s.operand 0 16) := by
      simp only [State.complete_r, State.setR_r, Fin.val_zero, Vector.getElem_set_self, BitVec.toNat_ofNat]
      omega
    rw [hr0]
    exact ⟨iff_of_true (State.err_complete _) (hfits.1 hle), fun _ => ⟨hlow, hle, hgap, hjoin⟩⟩
  · obtain rfl := Host.Outcome.next.inj (hends.symm.trans hexec)
    have herr : (s.raise (.addrOverflow (s.operand 0 16))).err ≠ 0#4 := by
      rw [State.err_raise]
      exact errorCode_ne_zero _
    exact ⟨iff_of_false herr (mt hfits.2 (Nat.not_le.2 hlt)), fun h0 => absurd h0 herr⟩

/-! #### Host accesses to what exists, and to what does not (R28, R33) -/

/-- Settles O16: each of the four accesses asks for the byte, whatever it would do with it. -/
theorem accessOutsideTheBuffersStops : Obligations.AccessOutsideTheBuffersStops := by
  intro s i v rest hi hhost
  rcases hhost with hhost | hhost | hhost | hhost
  all_goals exact (step_cons hhost).trans (accessByte_of_le hi _)

/-- An access that names what a read returns is served without effect. -/
theorem accessOnly_of_hostRead {s : State} {x : HostReg} {v : Reg64} (h : s.hostRead x = some v) (u : State) :
    accessOnly x u = .next u := by
  cases x with
  | tx i => exact accessByte_of_lt (Option.ite_none_right_eq_some.1 h).1 u
  | rx i => exact accessByte_of_lt (Option.ite_none_right_eq_some.1 h).1 u
  | _ => rfl

/-- Settles O18: what is read exists, so the access is served and only leaves the pending ones. -/
theorem hostReadsChangeNothing : Obligations.HostReadsChangeNothing := by
  intro s x rest hhost hread
  obtain ⟨v, hv⟩ := hread
  exact (step_cons hhost).trans (accessOnly_of_hostRead hv _)

end Sys2Proof.Machine

/-! ### Proofs for 30_encoding.md: calls, the set-output frame's fields, a parse's lanes, and operation codes -/

namespace Sys2Proof.Machine

/-! #### Serving the operand accesses of a call (R38, R55) -/

section
variable {s t : State}

/-- A run goes on from the state its first step answers. -/
theorem run_succ_of_step (h : step s = .next t) (k : Nat) :
    Sys2Proof.core.run (k + 1) s = Sys2Proof.core.run k t := by
  have hstep : Sys2Proof.core.step s = .next t := h
  simp only [Host.Core.run, hstep]

/-- A run of one step is the step. -/
theorem run_one (s : State) : Sys2Proof.core.run 1 s = step s := by
  simp only [Host.Core.run]
  split <;> next h => exact h.symm

/-- The state after an access that puts an operand in place: one of `A0..A3`, a byte of `RXBUF`, or `RXLEN`
(R55). -/
def State.deliver (s : State) : HostAction → State
  | .writeA k v => s.setA k v
  | .writeRx i v => { s with rxbuf := Memory.write s.rxbuf i v }
  | .writeRxlen v => { s with rxlen := v }
  | _ => s

/-- The accesses that `State.deliver` describes. -/
def Delivers (x : HostAction) : Prop := ∀ s : State, serve x s = .next (s.deliver x)

theorem delivers_writeA (k : Fin 4) (v : Reg64) : Delivers (.writeA k v) := fun _ => rfl

theorem delivers_writeRx {i : Nat} (h : i < 256) (v : Byte) : Delivers (.writeRx i v) :=
  fun _ => accessByte_of_lt h _

theorem delivers_writeRxlen (v : Word) : Delivers (.writeRxlen v) := fun _ => rfl

/-- A delivery looks at no pending access. -/
theorem State.deliver_host (s : State) (x : HostAction) (h : List HostAction) :
    State.deliver { s with host := h } x = { s.deliver x with host := h } := by
  cases x <;> rfl

theorem foldl_deliver_host (xs : List HostAction) (s : State) (h : List HostAction) :
    xs.foldl State.deliver { s with host := h } = { xs.foldl State.deliver s with host := h } := by
  induction xs generalizing s with
  | nil => rfl
  | cons x xs ih => rw [List.foldl_cons, State.deliver_host, ih, List.foldl_cons]

/-- Deliveries write `A`, `RXBUF` and `RXLEN` alone. -/
theorem foldl_deliver_frame (xs : List HostAction) (s : State) :
    xs.foldl State.deliver s =
      { s with a := (xs.foldl State.deliver s).a, rxbuf := (xs.foldl State.deliver s).rxbuf,
               rxlen := (xs.foldl State.deliver s).rxlen } := by
  induction xs generalizing s with
  | nil => rfl
  | cons x xs ih =>
    rw [List.foldl_cons, ih]
    cases x <;> rfl

/-- Pending deliveries are served one by one, and the run goes on with what is pending after them. -/
theorem run_deliveries {xs ys : List HostAction} (hxs : ∀ x ∈ xs, Delivers x) (hhost : s.host = xs ++ ys)
    (k : Nat) :
    Sys2Proof.core.run (xs.length + k) s =
      Sys2Proof.core.run k { xs.foldl State.deliver s with host := ys } := by
  induction xs generalizing s with
  | nil =>
    obtain rfl : s.host = ys := hhost
    rw [List.length_nil, Nat.zero_add, List.foldl_nil]
  | cons x xs ih =>
    have hstep : step s = .next { s.deliver x with host := xs ++ ys } :=
      (step_cons hhost).trans ((hxs x List.mem_cons_self _).trans (by rw [State.deliver_host]; rfl))
    have hrest : ∀ y ∈ xs, Delivers y := fun y hy => hxs y (List.mem_cons_of_mem x hy)
    rw [List.length_cons, Nat.add_right_comm, run_succ_of_step hstep, ih hrest rfl, foldl_deliver_host,
      List.foldl_cons]

end

/-! #### Where the operands of a call come to stand (R43, R45, R55) -/

/-- The byte accesses of a receive buffer write consecutive bytes. -/
theorem foldl_deliver_loadRxFrom (i : Nat) (bytes : List Byte) (s : State) :
    (loadRxFrom i bytes).foldl State.deliver s = { s with rxbuf := Memory.writeBytes s.rxbuf i bytes } := by
  induction bytes generalizing i s with
  | nil => rfl
  | cons b bs ih =>
    rw [loadRxFrom, List.foldl_cons, ih]
    rfl

/-- The accesses of R55 that load the receive buffer present its bytes (R86). -/
theorem foldl_deliver_loadRx (bytes : List Byte) (s : State) :
    (loadRx bytes).foldl State.deliver s = s.presentRx bytes := by
  rw [loadRx, List.foldl_append, foldl_deliver_loadRxFrom]
  rfl

theorem delivers_of_mem_loadRxFrom {i : Nat} {bytes : List Byte} (h : i + bytes.length ≤ 256) :
    ∀ x ∈ loadRxFrom i bytes, Delivers x := by
  induction bytes generalizing i with
  | nil => simp [loadRxFrom]
  | cons b bs ih =>
    rw [List.length_cons] at h
    rw [loadRxFrom, List.forall_mem_cons]
    exact ⟨delivers_writeRx (by omega) b, ih (by omega)⟩

theorem delivers_of_mem_loadRx {bytes : List Byte} (h : bytes.length ≤ 256) :
    ∀ x ∈ loadRx bytes, Delivers x := by
  rw [loadRx, List.forall_mem_append, List.forall_mem_singleton]
  exact ⟨delivers_of_mem_loadRxFrom (by omega), delivers_writeRxlen _⟩

/-- Every operand access of a well-formed call is a delivery. -/
theorem delivers_of_mem_callOperands {c : Call} (h : c.wellFormed = true) :
    ∀ x ∈ callOperands c, Delivers x := by
  cases c with
  | parseOutputResponse rx => exact delivers_of_mem_loadRx (of_decide_eq_true h)
  | parseRead rx => exact delivers_of_mem_loadRx (of_decide_eq_true h)
  | _ => simp [callOperands, delivers_writeA]

/-- A presented answer is read back whole (R19). -/
theorem State.rxBytes_presentRx (s : State) {bytes : List Byte} (h : bytes.length ≤ 256) :
    (s.presentRx bytes).rxBytes 0 (s.presentRx bytes).rxlen.toNat = bytes := by
  have hlen : (s.presentRx bytes).rxlen.toNat = bytes.length := by
    rw [State.presentRx_rxlen, BitVec.toNat_ofNat, Nat.mod_eq_of_lt (by omega)]
  rw [hlen]
  apply List.ext_getElem
  · simp [State.rxBytes]
  · intro k _ hk
    simp [State.rxBytes, State.rxByte_presentRx, hk]

/-- A write of another operand register leaves a slice as it was (R11, R45). -/
theorem State.operand_setA_other (s : State) {j k : Fin 4} (h : j ≠ k) (v : Reg64) (n : Nat) :
    (s.setA j v).operand k n = s.operand k n := by
  have hne : (j : Nat) ≠ k := fun e => h (Fin.ext e)
  simp [State.operand, hne]

/-- An operand that fits its slice is read back from the register it is written to. -/
theorem State.toNat_operand_setA (s : State) (k : Fin 4) {n v : Nat} (hn : n ≤ 64) (h : fitsBits n v = true) :
    ((s.setA k (BitVec.ofNat 64 v)).operand k n).toNat = v := by
  have hv : v < 2 ^ n := of_decide_eq_true h
  have hreg : (s.setA k (BitVec.ofNat 64 v)).operand k n = (BitVec.ofNat 64 v).setWidth n := by
    simp [State.operand]
  rw [hreg, BitVec.setWidth_ofNat_of_le hn, BitVec.toNat_ofNat, Nat.mod_eq_of_lt hv]

/-- A signed operand that fits 64 bits is the signed value of the register it is written to. -/
theorem toInt_of_fitsSigned64 {v : Int} (h : fitsSigned64 v = true) : (BitVec.ofInt 64 v).toInt = v := by
  simp only [fitsSigned64, Bool.and_eq_true, decide_eq_true_eq] at h
  obtain ⟨hlo, hhi⟩ := h
  rw [BitVec.toInt_ofInt]
  exact Int.bmod_eq_of_le (by omega) (by omega)

/-- The call an operation's operands spell does not depend on what is pending. -/
theorem callOf_host (i : Instr) (s : State) (h : List HostAction) :
    callOf i { s with host := h } = callOf i s := by
  cases i <;> rfl

/-- The operands of a well-formed call, delivered to any state, spell that call. -/
theorem callOf_foldl_deliver {c : Call} (h : c.wellFormed = true) (s : State) :
    callOf (callInstr c) ((callOperands c).foldl State.deliver s) = c := by
  cases c with
  | parseOutputResponse rx =>
    rw [callOperands, foldl_deliver_loadRx]
    exact congrArg Call.parseOutputResponse (s.rxBytes_presentRx (of_decide_eq_true h))
  | parseRead rx =>
    rw [callOperands, foldl_deliver_loadRx]
    exact congrArg Call.parseRead (s.rxBytes_presentRx (of_decide_eq_true h))
  | _ =>
    simp only [Call.wellFormed, Bool.and_eq_true] at h
    simp [callInstr, callOperands, callOf, State.deliver, State.operand_setA_other, State.toNat_operand_setA,
      toInt_of_fitsSigned64, h, -BitVec.toInt_ofInt]

/-- Settles O23: the deliveries are served first (`run_deliveries`), the call is read back from them
(`callOf_foldl_deliver`), and the access left is the write of `OP`. -/
theorem callsDeliverTheirOperands : Obligations.CallsDeliverTheirOperands := by
  intro c s rest hwf hhost
  have hdeliver : ∀ x ∈ callOperands c, Delivers x := delivers_of_mem_callOperands hwf
  have hpending : s.host = callOperands c ++ .writeOp (encode (callInstr c)) :: rest := by
    rw [hhost, expandCall, List.append_assoc, List.singleton_append]
  refine ⟨{ (callOperands c).foldl State.deliver s with host := .writeOp (encode (callInstr c)) :: rest },
    run_deliveries hdeliver hpending 0, ?_, ?_, ?_⟩
  · rw [callOf_host, callOf_foldl_deliver hwf]
  · rw [foldl_deliver_frame]
  · have hlen : (expandCall c).length = (callOperands c).length + 1 := by simp [expandCall]
    rw [hlen, run_deliveries hdeliver hpending, run_one]
    exact stepRunsTheDecodedOperation _ _ _ rest rfl (decode_encode _)

/-! #### Bytes that stand at an offset of a buffer (R47) -/

/-- The bytes of a buffer from `off` on spell the list. -/
def SpellsAt (tx : Nat → Byte) (off : Nat) (bytes : List Byte) : Prop :=
  bytes = (List.range' off bytes.length).map tx

section
variable {tx : Nat → Byte} {off : Nat}

/-- Two parts stand one behind the other. -/
theorem spellsAt_append {xs ys : List Byte} :
    SpellsAt tx off (xs ++ ys) ↔ SpellsAt tx off xs ∧ SpellsAt tx (off + xs.length) ys := by
  unfold SpellsAt
  rw [List.length_append, ← List.range'_append_1, List.map_append]
  constructor
  · intro h
    exact List.append_inj h (by simp)
  · rintro ⟨hx, hy⟩
    rw [← hx, ← hy]

theorem spellsAt_cons {b : Byte} {bs : List Byte} :
    SpellsAt tx off (b :: bs) ↔ b = tx off ∧ SpellsAt tx (off + 1) bs := by
  simp [SpellsAt, List.range'_succ]

/-- Each byte of the list stands at its place. -/
theorem SpellsAt.getElem? {bytes : List Byte} (h : SpellsAt tx off bytes) {k : Nat} (hk : k < bytes.length) :
    bytes[k]? = some (tx (off + k)) := by
  rw [h, List.getElem?_map, List.getElem?_range' hk, Nat.one_mul, Option.map_some]

theorem SpellsAt.eq_singleton {bytes : List Byte} (h : SpellsAt tx off bytes) (hlen : bytes.length = 1) :
    bytes = [tx off] := by
  rw [h, hlen]
  rfl

theorem SpellsAt.eq_pair {bytes : List Byte} (h : SpellsAt tx off bytes) (hlen : bytes.length = 2) {j : Nat}
    (hj : j = off + 1) : [tx off, tx j] = bytes := by
  rw [h, hlen, hj]
  rfl

/-- The same offset, spelled otherwise. -/
theorem SpellsAt.offset_eq {bytes : List Byte} (h : SpellsAt tx off bytes) {off' : Nat} (e : off = off') :
    SpellsAt tx off' bytes := e ▸ h

end

/-- What a build sent stands in `TXBUF` from byte 0 on (R18). -/
theorem spellsAt_txByte_send (s : State) (bytes : List Byte) : SpellsAt (s.send bytes).txByte 0 bytes := by
  apply List.ext_getElem
  · simp
  · intro k hk _
    simp [State.txByte_send, hk]

/-- A word sent for three phases puts its high and its low byte at each of three places (R47). -/
theorem spellsAt_phaseWords {c : Config.Built} {w : Word} {tx : Nat → Byte} {off : Nat}
    (h : SpellsAt tx off (phaseWords c.val w)) {p j : Nat} (hp : p < 3) (hj : j = off + 2 * p + 1) :
    [tx (off + 2 * p), tx j] = [BitVec.ofNat 8 (w.toNat / 256), BitVec.ofNat 8 w.toNat] := by
  simp only [phaseWords_eq, spellsAt_cons, Nat.add_assoc, Nat.reduceAdd] at h
  obtain ⟨h0, h1, h2, h3, h4, h5, -⟩ := h
  subst hj
  interval_cases p
  · simp [h0, h1]
  · simp [h2, h3, Nat.add_assoc]
  · simp [h4, h5, Nat.add_assoc]

/-! #### The set-output frame (R47, R66) -/

/-- `ScaledTo` says what the scaler computes (R58, R59). -/
theorem scaledTo_iff {cfg : Config} {x : ℚ} {c : Fin 4} {n : ℤ} :
    ScaledTo cfg x c n ↔ c = classOf cfg.scaleBuckets x ∧
      n = roundS cfg.scaleRound (x * scaleOf cfg.scaleBuckets (classOf cfg.scaleBuckets x)) := by
  have hround : ∀ y : ℚ,
      ⌊y + (if cfg.scaleRound = .nearest then 1 / 2 else 0)⌋ = roundS cfg.scaleRound y := by
    intro y
    cases cfg.scaleRound <;> simp [roundS]
  unfold ScaledTo
  rw [hround]
  constructor
  · rintro ⟨rfl, rfl⟩
    exact ⟨rfl, rfl⟩
  · rintro ⟨rfl, rfl⟩
    exact ⟨rfl, rfl⟩

/-- The two bytes of a word that holds an integer are those of the integer. -/
theorem bytes_of_ofInt (n : ℤ) :
    BitVec.ofNat 8 ((BitVec.ofInt 16 n).toNat / 256) = BitVec.ofInt 8 (n / 256) ∧
    BitVec.ofNat 8 (BitVec.ofInt 16 n).toNat = BitVec.ofInt 8 n := by
  constructor
  · exact BitVec.eq_of_toNat_eq (by simp; omega)
  · exact BitVec.eq_of_toNat_eq (by simp; omega)

/-- The word of a quantity that scales without error. -/
theorem scaleWord_eq_ok {cfg : Config} {operand : OperandIx} {x : ℚ} {c : Fin 4} {n : ℤ} {v : Word × Fin 4}
    (hx : ScaledTo cfg x c n) (h : scaleWord cfg operand x = .ok v) : v = (BitVec.ofInt 16 n, c) := by
  obtain ⟨rfl, rfl⟩ := scaledTo_iff.1 hx
  rcases scaleWord_cases cfg operand x with ⟨-, he⟩ | ⟨-, -, he⟩ | ⟨-, -, hok⟩
  · cases he.symm.trans h
  · cases he.symm.trans h
  · exact (Except.ok.inj (hok.symm.trans h)).symm

/-- An operation that reports no error has completed (R16, R95). -/
theorem State.ok_of_err_finish {s : State} {x : Except OpError State} (h : (s.finish x).err = 0#4) :
    ∃ u, x = .ok u := by
  cases x with
  | ok u => exact ⟨u, rfl⟩
  | error e =>
    rw [State.finish_error, State.err_raise] at h
    exact absurd h (errorCode_ne_zero e)

/-- A `BUILD_SET_OUTPUT` that reports no error has scaled both quantities and sent the frame (R66). -/
theorem exec_buildSetOutput_completed {s t : State} {cv ci : Fin 4} {nv ni : ℤ}
    (hv : ScaledTo s.cfg.val (physVal s.a[0]) cv nv) (hi : ScaledTo s.cfg.val (physVal s.a[1]) ci ni)
    (hexec : exec .buildSetOutput s = .next t) (herr : t.err = 0#4) :
    t.txlen.toNat = s.cfg.val.setLen ∧
    SpellsAt t.txByte 0 (setOutputFrame s.cfg.val (BitVec.ofInt 16 nv) (BitVec.ofInt 16 ni)
      (pfWord s.cfg.val (s.operand 2 8))) := by
  obtain rfl := Host.Outcome.next.inj hexec
  obtain ⟨u, hu⟩ := State.ok_of_err_finish herr
  rw [hu, State.finish_ok]
  cases hwv : scaleWord s.cfg.val .a0 (physVal s.a[0]) with
  | error e =>
    rw [hwv] at hu
    cases hu
  | ok v =>
    cases hwi : scaleWord s.cfg.val .a1 (physVal s.a[1]) with
    | error e =>
      rw [hwv, hwi] at hu
      cases hu
    | ok w =>
      rw [hwv, hwi, scaleWord_eq_ok hv hwv, scaleWord_eq_ok hi hwi] at hu
      obtain rfl := Except.ok.inj hu
      refine ⟨?_, spellsAt_txByte_send s _⟩
      rw [State.complete_txlen, toNat_txlen_send (by simp [setOutputFrame_length]), setOutputFrame_length]

/-- The parts of the set-output frame, each behind the parts before it (R47). -/
theorem spellsAt_setOutputFrame {c : Config.Built} {wv wi wp : Word} {tx : Nat → Byte}
    (h : SpellsAt tx 0 (setOutputFrame c.val wv wi wp)) :
    SpellsAt tx 0 c.val.preamble ∧ SpellsAt tx 5 c.val.frameId ∧ SpellsAt tx 6 c.val.cmd ∧
    SpellsAt tx (6 + c.val.cmdLen) (phaseWords c.val wv) ∧
    SpellsAt tx (12 + c.val.cmdLen) (phaseWords c.val wi) ∧
    SpellsAt tx (18 + c.val.cmdLen) (phaseWords c.val wp) ∧
    SpellsAt tx (24 + c.val.cmdLen) c.val.tail ∧
    SpellsAt tx (24 + c.val.cmdLen + c.val.tailLen)
      (trailerOf c.val ((List.range (24 + c.val.cmdLen + c.val.tailLen)).map tx)) := by
  obtain ⟨hpreamble, hframeId, hcmd, htail, -⟩ := c.lengths
  have hbodyLen : (setOutputBody c.val wv wi wp).length = 24 + c.val.cmdLen + c.val.tailLen := by
    have hlen := setOutputBody_length c wv wi wp
    rw [c.setLen_eq] at hlen
    omega
  obtain ⟨hbody, htrailer⟩ := spellsAt_append.1 h
  have hbytes : setOutputBody c.val wv wi wp = (List.range (24 + c.val.cmdLen + c.val.tailLen)).map tx := by
    rw [← hbodyLen, List.range_eq_range']
    exact hbody
  rw [← hbytes]
  rw [hbodyLen, Nat.zero_add] at htrailer
  simp only [setOutputBody, spellsAt_append, List.length_append, hpreamble, hframeId, hcmd,
    phaseWords_length] at hbody
  obtain ⟨⟨⟨⟨⟨⟨h1, h2⟩, h3⟩, h4⟩, h5⟩, h6⟩, h7⟩ := hbody
  exact ⟨h1, h2, h3, h4.offset_eq (by omega), h5.offset_eq (by omega), h6.offset_eq (by omega),
    h7.offset_eq (by omega), htrailer⟩

/-- Settles O24: the frame stands in `TXBUF` from byte 0, and each field in it behind the fields before it. -/
theorem setOutputFieldOffsets : Obligations.SetOutputFieldOffsets := by
  intro s t xv xi cv ci nv ni l m hxv hxi hv hi hl hm hexec herr
  have hunit : ∀ v : Reg64, (v.toInt : ℚ) / 10 ^ 8 = physVal v := fun v =>
    (quantisationOfQuantities.1 v).symm
  rw [hxv, hunit] at hv
  rw [hxi, hunit] at hi
  obtain ⟨hlen, hframe⟩ := exec_buildSetOutput_completed hv hi hexec herr
  obtain ⟨hpreambleLen, hframeIdLen, hcmdLen, htailLen, -⟩ := s.cfg.lengths
  obtain ⟨hpreamble, hframeId, hcmd, hV, hI, hP, htail, htrailer⟩ := spellsAt_setOutputFrame hframe
  subst hl hm
  refine ⟨hlen.trans s.cfg.setLen_eq, fun k hk => ?_, hframeId.eq_singleton hframeIdLen, fun k hk => ?_,
    fun p hp => ⟨?_, ?_, ?_⟩, fun k hk => ?_, htrailer.eq_pair (trailerOf_length _ _) (by omega)⟩
  · rw [hpreamble.getElem? (by omega), Nat.zero_add]
  · exact hcmd.getElem? (by omega)
  · rw [spellsAt_phaseWords hV hp (by omega), (bytes_of_ofInt nv).1, (bytes_of_ofInt nv).2]
  · rw [spellsAt_phaseWords hI hp (by omega), (bytes_of_ofInt ni).1, (bytes_of_ofInt ni).2]
  · exact spellsAt_phaseWords hP hp (by omega)
  · exact htail.getElem? (by omega)

/-! #### The lanes of a parse (R69, R71) -/

/-- Where the results of phase `p` stand (R69). -/
theorem responseResults_getElem? (s : State) (p : Fin 3) :
    (responseResults s)[(p : Nat)]? = some (laneV s p) ∧
    (responseResults s)[3 + (p : Nat)]? = some (laneI s p) ∧
    (responseResults s)[6 + (p : Nat)]? = some (BitVec.ofNat 64 (laneRaw s p)) ∧
    (responseResults s)[9 + (p : Nat)]? = some ((labelCode (laneLabel s p)).setWidth 64) := by
  fin_cases p <;> exact ⟨rfl, rfl, rfl, rfl⟩

/-- A parse that reports no error has written its twelve results (R69). -/
theorem exec_parseOutputResponse_completed {s t : State} (hexec : exec .parseOutputResponse s = .next t)
    (herr : t.err = 0#4) : t.r = responseResults s := by
  obtain rfl := Host.Outcome.next.inj hexec
  obtain ⟨u, hu⟩ := State.ok_of_err_finish herr
  rw [hu, State.finish_ok]
  split at hu
  · cases hu
  · split at hu
    · cases hu
    · rw [← Except.ok.inj hu, State.complete_r]

section
variable {s s' : State} (hcfg : s.cfg = s'.cfg) (p : Fin 3)
include hcfg

/-- A lane is a function of the configuration and of its own field's bytes (R49, R71). -/
theorem laneV_congr (h : ∀ k < s.cfg.val.respWV,
    s.rxByte (s.cfg.val.respOffV[p] + k) = s'.rxByte (s.cfg.val.respOffV[p] + k)) : laneV s p = laneV s' p := by
  rw [laneV, State.memRead_congr h, hcfg, laneV]

theorem laneI_congr (h : ∀ k < s.cfg.val.respWI,
    s.rxByte (s.cfg.val.respOffI[p] + k) = s'.rxByte (s.cfg.val.respOffI[p] + k)) : laneI s p = laneI s' p := by
  rw [laneI, State.memRead_congr h, hcfg, laneI]

theorem laneRaw_congr (h : ∀ k < s.cfg.val.respWPf,
    s.rxByte (s.cfg.val.respOffPf[p] + k) = s'.rxByte (s.cfg.val.respOffPf[p] + k)) :
    laneRaw s p = laneRaw s' p := by
  rw [laneRaw, State.memRead_congr h, hcfg, laneRaw]

end

/-- Settles O40: lane by lane, from the field's bytes to its result registers. -/
theorem parseLanesSeeOnlyTheirField : Obligations.ParseLanesSeeOnlyTheirField := by
  intro s s' t t' p hcfg hexec hexec' herr herr'
  obtain ⟨hV, hI, hraw, hlabel⟩ := responseResults_getElem? s p
  obtain ⟨hV', hI', hraw', hlabel'⟩ := responseResults_getElem? s' p
  rw [exec_parseOutputResponse_completed hexec herr, exec_parseOutputResponse_completed hexec' herr',
    hV, hI, hraw, hlabel, hV', hI', hraw', hlabel']
  refine ⟨fun h => ?_, fun h => ?_, fun h => ?_⟩
  · rw [laneV_congr hcfg p h]
  · rw [laneI_congr hcfg p h]
  · rw [laneLabel, laneLabel, laneRaw_congr hcfg p h, hcfg]
    exact ⟨rfl, rfl⟩

/-! #### Operation codes (R42 to R44) -/

/-- Settles O20: each byte of the map is the code of its operation. -/
theorem codesReadAsTheMapSays : Obligations.CodesReadAsTheMapSays :=
  ⟨decode_encode .scaleToFixed, decode_encode .fixedToScale, decode_encode .pfToCode, decode_encode .decodePf,
    decode_encode .buildSetOutput, decode_encode .buildPoll, decode_encode .parseOutputResponse,
    decode_encode .wireAddr, decode_encode .buildRead, decode_encode .parseRead, decode_encode .combinePair,
    decode_encode .scaleSingle, decode_encode .buildWrite, decode_encode .tc16Encode⟩

/-- Settles O21: a byte that decodes is a code, and a code decodes to its own operation. -/
theorem decodeAndEncodeAgree : Obligations.DecodeAndEncodeAgree := by
  intro c i
  constructor
  · intro h
    rcases decode_cases c with hreserved | ⟨j, hj, rfl⟩
    · cases hreserved.symm.trans h
    · rw [Except.ok.inj (hj.symm.trans h)]
  · rintro rfl
    exact decode_encode i

/-- Which bytes are reserved codes (R44). -/
theorem decode_eq_error_iff (c : Byte) : decode c = .error (.reservedOpcode c) ↔
    c.toNat = 0x00 ∨ (0x05 ≤ c.toNat ∧ c.toNat ≤ 0x0F) ∨ (0x13 ≤ c.toNat ∧ c.toNat ≤ 0x1F) ∨
      (0x27 ≤ c.toNat ∧ c.toNat ≤ 0xFF) := by
  revert c
  decide +kernel

/-- Settles O22: serving a reserved code raises `IllegalOp`, and every byte outside the ranges decodes. -/
theorem reservedCodesEndInIllegalOp : Obligations.ReservedCodesEndInIllegalOp := by
  intro c
  rw [← decode_eq_error_iff]
  refine ⟨fun hreserved s rest hhost => ?_, fun hcode => ?_⟩
  · rw [step_cons hhost, serve]
    simp [startOp, hreserved, State.raise_eq, errorCode, errorInfo]
  · obtain ⟨i, hi, -⟩ := (decode_cases c).resolve_left hcode
    exact ⟨i, hi⟩

end Sys2Proof.Machine

/-! ### Proofs for 40_value_scaler.md: classes and rounding, the four operations, and the round trip -/

namespace Sys2Proof.Machine

/-! #### Magnitude classes and scale factors at the decided default (R58) -/

/-- The four classes at the default boundaries, with the interval of each. -/
theorem classOf_default_cases (x : ℚ) :
    (x < 10 ∧ classOf {} x = 0) ∨ (10 ≤ x ∧ x < 100 ∧ classOf {} x = 1) ∨
    (100 ≤ x ∧ x < 1000 ∧ classOf {} x = 2) ∨ (1000 ≤ x ∧ classOf {} x = 3) := by
  unfold classOf
  split_ifs with hten hhundred hthousand
  · exact .inl ⟨hten, rfl⟩
  · exact .inr (.inl ⟨not_lt.1 hten, hhundred, rfl⟩)
  · exact .inr (.inr (.inl ⟨not_lt.1 hhundred, hthousand, rfl⟩))
  · exact .inr (.inr (.inr ⟨not_lt.1 hthousand, rfl⟩))

/-- The default factors, by class. -/
theorem scaleOf_default :
    scaleOf {} 0 = 1000 ∧ scaleOf {} 1 = 100 ∧ scaleOf {} 2 = 10 ∧ scaleOf {} 3 = 1 := by
  simp [scaleOf]

/-- No default factor is zero. -/
theorem scaleOf_default_pos (c : Fin 4) : 0 < scaleOf {} c := by
  fin_cases c <;> simp [scaleOf]

/-- The factor of a class makes up for its upper boundary: four digits before rounding. -/
theorem mul_scaleOf_default_lt {x : ℚ} (h : x < 1000) : x * scaleOf {} (classOf {} x) < 10000 := by
  obtain ⟨h0, h1, h2, -⟩ := scaleOf_default
  rcases classOf_default_cases x with ⟨hx, hc⟩ | ⟨-, hx, hc⟩ | ⟨-, hx, hc⟩ | ⟨hx, -⟩
  · rw [hc, h0]
    linarith
  · rw [hc, h1]
    linarith
  · rw [hc, h2]
    linarith
  · exact absurd h (not_lt.2 hx)

/-- Settles O25: the four intervals of the classes exclude each other. -/
theorem defaultBucketsCountDigits : Obligations.DefaultBucketsCountDigits := by
  intro x _
  obtain ⟨h0, h1, h2, h3⟩ := scaleOf_default
  have hcases := classOf_default_cases x
  refine ⟨?_, ?_, ?_, ?_, h0, h1, h2, h3, mul_scaleOf_default_lt⟩ <;> grind

/-! #### Rounding (R59) -/

/-- Both modes keep an integer. -/
theorem roundS_intCast (mode : ScaleRound) (z : ℤ) : roundS mode z = z := by
  cases mode with
  | nearest =>
    rw [roundS, Int.floor_eq_iff]
    constructor <;> linarith
  | truncate => exact Int.floor_intCast z

/-- Both modes keep a quantity that is not negative so. -/
theorem roundS_nonneg (mode : ScaleRound) {y : ℚ} (hy : 0 ≤ y) : 0 ≤ roundS mode y := by
  cases mode with
  | nearest => exact Int.floor_nonneg.2 (by linarith)
  | truncate => exact Int.floor_nonneg.2 hy

/-- Scaling, rounding to nearest and scaling back moves a quantity by at most half a step. -/
theorem abs_roundS_nearest_div_sub_le (x : ℚ) {k : ℚ} (hk : 0 < k) :
    |roundS .nearest (x * k) / k - x| ≤ 1 / (2 * k) := by
  have hle : (roundS .nearest (x * k) : ℚ) ≤ x * k + 1 / 2 := Int.floor_le _
  have hlt : x * k + 1 / 2 < roundS .nearest (x * k) + 1 := Int.lt_floor_add_one _
  have habs : |(roundS .nearest (x * k) : ℚ) - x * k| ≤ 1 / 2 := abs_le.2 ⟨by linarith, by linarith⟩
  calc |roundS .nearest (x * k) / k - x|
      = |(roundS .nearest (x * k) : ℚ) - x * k| / k := by
        rw [← abs_of_pos hk, ← abs_div, abs_of_pos hk, sub_div, mul_div_cancel_right₀ _ hk.ne']
    _ ≤ 1 / 2 / k := by gcongr
    _ = 1 / (2 * k) := div_div ..

/-- Scaling, truncating and scaling back lowers a quantity by less than a step. -/
theorem sub_roundS_truncate_div_bounds (x : ℚ) {k : ℚ} (hk : 0 < k) :
    0 ≤ x - roundS .truncate (x * k) / k ∧ x - roundS .truncate (x * k) / k < 1 / k := by
  have hle : (roundS .truncate (x * k) : ℚ) ≤ x * k := Int.floor_le _
  have hlt : x * k < roundS .truncate (x * k) + 1 := Int.lt_floor_add_one _
  have hstep : x - roundS .truncate (x * k) / k = (x * k - roundS .truncate (x * k)) / k := by
    rw [sub_div, mul_div_cancel_right₀ _ hk.ne']
  rw [hstep]
  exact ⟨div_nonneg (by linarith) hk.le, by gcongr; linarith⟩

/-! #### `SCALE_TO_FIXED` (R60) -/

/-- An integer that fits a word is the same number in a word and in a register. -/
theorem setWidth_ofInt_word {n : ℤ} (h0 : 0 ≤ n) (hn : n ≤ 65535) :
    (BitVec.ofInt 16 n).setWidth 64 = BitVec.ofInt 64 n := by
  lift n to ℕ using h0
  rw [ofInt_natCast, ofInt_natCast]
  exact BitVec.eq_of_toNat_eq (by simp; omega)

/-- A scaled quantity that is not negative rounds to no negative integer. -/
theorem ScaledTo.nonneg {cfg : Config} {x : ℚ} {c : Fin 4} {n : ℤ} (h : ScaledTo cfg x c n) (hx : 0 ≤ x) :
    0 ≤ n := by
  obtain ⟨-, rfl⟩ := scaledTo_iff.1 h
  exact roundS_nonneg _ (mul_nonneg hx (Nat.cast_nonneg _))

/-- The three ends of `SCALE_TO_FIXED`, in the order of its tests (R60). -/
theorem exec_scaleToFixed_cases {s : State} {c : Fin 4} {n : ℤ}
    (h : ScaledTo s.cfg.val (physVal s.a[0]) c n) :
    (physVal s.a[0] < 0 ∧ exec .scaleToFixed s = .next (s.raise (.outOfRange .a0 .negative))) ∨
    (0 ≤ physVal s.a[0] ∧ 65535 < n ∧
      exec .scaleToFixed s = .next (s.raise (.outOfRange .a0 .above16Bits))) ∨
    (0 ≤ physVal s.a[0] ∧ n ≤ 65535 ∧ exec .scaleToFixed s =
      .next ((s.setR 0 (BitVec.ofInt 64 n)).setR 1 (BitVec.ofNat 64 c)).complete) := by
  have hexec : exec .scaleToFixed s = .next (s.finish ((scaleWord s.cfg.val .a0 (physVal s.a[0])).map
      fun v => (s.setR 0 (v.1.setWidth 64)).setR 1 (BitVec.ofNat 64 v.2))) := rfl
  obtain ⟨hc, hn⟩ := scaledTo_iff.1 h
  rcases scaleWord_cases s.cfg.val .a0 (physVal s.a[0]) with ⟨hneg, he⟩ | ⟨h0, hbig, he⟩ | ⟨h0, hfits, hok⟩
  · exact .inl ⟨hneg, by rw [hexec, he]; rfl⟩
  · exact .inr (.inl ⟨h0, hn ▸ hbig, by rw [hexec, he]; rfl⟩)
  · rw [← hn] at hfits
    rw [← hn, ← hc] at hok
    exact .inr (.inr ⟨h0, hfits, by rw [hexec, hok, ← setWidth_ofInt_word (h.nonneg h0) hfits]; rfl⟩)

/-- Settles O26: the case's own tests pick one of the three ends. -/
theorem scaleToFixedResult : Obligations.ScaleToFixedResult := by
  intro s x c n hx hscaled
  obtain rfl : x = physVal s.a[0] := hx.trans (quantisationOfQuantities.1 _).symm
  rcases exec_scaleToFixed_cases hscaled with ⟨hneg, he⟩ | ⟨h0, hbig, he⟩ | ⟨h0, hfits, he⟩
  · exact ⟨fun h => absurd hneg (not_lt.2 h), fun _ => he, fun h => absurd hneg (not_lt.2 h)⟩
  · exact ⟨fun _ h => absurd hbig (not_lt.2 h), fun h => absurd h0 (not_le.2 h), fun _ _ => he⟩
  · exact ⟨fun _ _ => he, fun h => absurd h0 (not_le.2 h), fun _ h => absurd h (not_lt.2 hfits)⟩

/-! #### `FIXED_TO_SCALE` (R46, R61) -/

/-- A slice of an operand register as a number (R45). -/
theorem State.toNat_operand (s : State) (k : Fin 4) (n : Nat) : (s.operand k n).toNat = s.a[k].toNat % 2 ^ n :=
  BitVec.toNat_setWidth ..

/-- A divisor's own selector names it. -/
theorem divisorOfSelector_of_toNat_eq {b : BitVec 3} {d : Divisor} (h : b.toNat = selectorOf d) :
    divisorOfSelector b = some d := by
  rw [divisorOfSelector_eq, h]
  cases d with
  | ofClass c => rw [selectorOf, dif_pos c.isLt]
  | voltage => rfl
  | current => rfl

/-- The selectors 6 and 7 name no divisor. -/
theorem divisorOfSelector_eq_none {b : BitVec 3} (h : 6 ≤ b.toNat) : divisorOfSelector b = none := by
  rw [divisorOfSelector_eq, dif_neg (by omega), if_neg (by omega), if_neg (by omega)]

/-- The selectors below 6 name the six divisors (R46). -/
theorem exists_selectorOf_eq {d : Nat} (h : d < 6) : ∃ v : Divisor, selectorOf v = d := by
  obtain hclass | rfl | rfl : d < 4 ∨ d = 4 ∨ d = 5 := by omega
  · exact ⟨.ofClass ⟨d, hclass⟩, rfl⟩
  · exact ⟨.voltage, rfl⟩
  · exact ⟨.current, rfl⟩

/-- `FIXED_TO_SCALE` with a selector that names a divisor. -/
theorem exec_fixedToScale_of_selector {s : State} {raw : Nat} {d : Divisor}
    (hraw : raw = s.a[0].toNat % 2 ^ 32) (hd : selectorOf d = s.a[1].toNat % 8) :
    exec .fixedToScale s = .next (s.setR 0 (physBits (divideBy s.cfg.val raw d))).complete := by
  have hraw' : (s.operand 0 32).toNat = raw := (s.toNat_operand 0 32).trans hraw.symm
  have hd' : divisorOfSelector (s.operand 1 3) = some d :=
    divisorOfSelector_of_toNat_eq ((s.toNat_operand 1 3).trans hd.symm)
  simp [exec, execFixedToScale, hd', hraw']

/-- `FIXED_TO_SCALE` with a reserved selector. -/
theorem exec_fixedToScale_of_reserved {s : State} (hd : 6 ≤ s.a[1].toNat % 8) :
    exec .fixedToScale s = .next (s.raise (.badOperand .a1)) := by
  have hd' : divisorOfSelector (s.operand 1 3) = none :=
    divisorOfSelector_eq_none (hd.trans_eq (s.toNat_operand 1 3).symm)
  simp [exec, execFixedToScale, hd']

/-- A quantity as its register holds it, in the spec's own spelling of `Q` (R7, R20). -/
theorem physBits_eq (x : ℚ) : physBits x = BitVec.ofInt 64 ⌊x * 10 ^ 8⌋ := by
  norm_num [physBits, quantise]

/-- Settles O27: each form of the quotient is the division by one divisor. -/
theorem fixedToScaleResult : Obligations.FixedToScaleResult := by
  intro s raw d x hraw hd
  refine ⟨fun hx => ?_, fun hreserved => exec_fixedToScale_of_reserved (hd ▸ hreserved)⟩
  obtain ⟨v, hv, rfl⟩ : ∃ v : Divisor, selectorOf v = d ∧ x = divideBy s.cfg.val raw v := by
    rcases hx with ⟨c, hc, hx⟩ | ⟨hc, hx⟩ | ⟨hc, hx⟩
    · exact ⟨.ofClass c, hc.symm, hx⟩
    · exact ⟨.voltage, hc.symm, hx⟩
    · exact ⟨.current, hc.symm, hx⟩
  rw [exec_fixedToScale_of_selector hraw (hv.trans hd), physBits_eq]
  rfl

/-- `Q` loses nothing of a quantity that is a whole number of units. -/
theorem quantise_eq_natCast {x : ℚ} {n : Nat} (h : x * 100000000 = n) : quantise x = n := by
  rw [quantise, h, Int.floor_natCast]

/-- The units a class's quotient has at the default buckets: each factor divides 1000. -/
theorem divideBy_ofClass_units {cfg : Config} (h : cfg.scaleBuckets = {}) (raw : Nat) (c : Fin 4) :
    divideBy cfg raw (.ofClass c) * 100000000 = (raw * 10 ^ (5 + (c : Nat)) : Nat) := by
  rw [divideBy, h]
  fin_cases c <;> simp [scaleOf] <;> ring

/-- The units a quotient has at the source's divisors. -/
theorem exists_divideBy_units {cfg : Config} (h : cfg.AtDefaults) (raw : Nat) (d : Divisor) :
    ∃ k ≤ 100000000, [100000, 1000000, 10000000, 100000000, 10000, 50][selectorOf d]? = some k ∧
      divideBy cfg raw d * 100000000 = (raw * k : Nat) := by
  obtain ⟨-, -, -, hV, hI1, hI2, -, hbuckets, -⟩ := h
  cases d with
  | ofClass c => exact ⟨10 ^ (5 + (c : Nat)), by revert c; decide, by revert c; decide,
      divideBy_ofClass_units hbuckets raw c⟩
  | voltage => exact ⟨10000, by decide, rfl, by rw [divideBy, hV]; push_cast; ring⟩
  | current => exact ⟨50, by decide, rfl, by rw [divideBy, hI1, hI2]; push_cast; ring⟩

/-- Settles O28: the quotient's units are the multiple, which fits the register. -/
theorem fixedToScaleIsExactAtSourceDivisors : Obligations.FixedToScaleIsExactAtSourceDivisors := by
  intro s raw d hdefaults hraw hd hlt
  obtain ⟨v, rfl⟩ := exists_selectorOf_eq hlt
  obtain ⟨k, hk, hlist, hunits⟩ := exists_divideBy_units hdefaults raw v
  have hfits : raw * k < 2 ^ 64 := by
    calc raw * k ≤ 2 ^ 32 * 100000000 := Nat.mul_le_mul (by omega) hk
      _ < 2 ^ 64 := by norm_num
  refine ⟨_, exec_fixedToScale_of_selector hraw hd, ?_⟩
  have hreg : (physBits (divideBy s.cfg.val raw v)).toNat = raw * k := by
    rw [physBits, quantise_eq_natCast hunits, ofInt_natCast, BitVec.toNat_ofNat, Nat.mod_eq_of_lt hfits]
  simp [hlist, hreg]

/-! #### `PF_TO_CODE` (R62) -/

/-- Every operand byte from 5 up has the unity code: none of them is the code of a power factor. -/
theorem pfWord_of_five_le (cfg : Config) {l : Byte} (h : 5 ≤ l.toNat) : pfWord cfg l = 0x0000#16 := by
  by_cases hunknown : l = labelCode .unknown
  · obtain ⟨-, -, -, -, -, -, hcode⟩ := labelCodesAgree
    simp [pfWord, hunknown, hcode]
  · have hne : l.toNat ≠ 0xFF := fun e => hunknown (BitVec.eq_of_toNat_eq e)
    have hnone : labelOfCode l = none := (labelOfCode_eq_none l).2 (by omega)
    simp [pfWord, hnone]

/-- Settles O29: the word is the one `pfWord` gives, label by label. -/
theorem pfToCodeResult : Obligations.PfToCodeResult := by
  intro s l hl
  obtain ⟨-, -, -, -, -, -, hcode⟩ := labelCodesAgree
  have hslice : (s.operand 0 8).toNat = l := (s.toNat_operand 0 8).trans hl.symm
  have hlabel : ∀ p : PfLabel, l = (labelCode p).toNat → labelOfCode (s.operand 0 8) = some p := by
    rintro p rfl
    rw [BitVec.eq_of_toNat_eq hslice, hcode]
  refine ⟨pfWord s.cfg.val (s.operand 0 8), rfl, fun h => ?_, fun h => ?_, fun h => ?_, fun h => ?_,
    fun h => ?_, fun h => pfWord_of_five_le _ (hslice ▸ h)⟩
  · rw [pfWord, hlabel .unity h, s.cfg.unity]
  · rw [pfWord, hlabel .leading05 h]
  · rw [pfWord, hlabel .c05 h]
  · rw [pfWord, hlabel .c08 h]
  · rw [pfWord, hlabel .l08 h]

/-! #### `DECODE_PF` (R63) -/

/-- `DECODE_PF` completes with the code of the label its bands give. -/
theorem exec_decodePf {s : State} {raw : Nat} (hraw : raw = s.a[0].toNat % 2 ^ 32) :
    exec .decodePf s =
      .next (s.setR 0 ((labelCode (labelOfRaw s.cfg.val.pfBands raw)).setWidth 64)).complete := by
  obtain rfl : (s.operand 0 32).toNat = raw := (s.toNat_operand 0 32).trans hraw.symm
  rfl

/-- Settles O30: the first band that holds the value decides its label. -/
theorem decodePfResult : Obligations.DecodePfResult := by
  intro s raw hraw
  rw [exec_decodePf hraw]
  refine ⟨fun before after b hbands hbefore hlo hhi => ?_, fun houtside => ?_⟩
  · rw [hbands, labelOfRaw_append hbefore ⟨hlo, hhi⟩]
    rfl
  · rw [labelOfRaw_outside houtside]
    rfl

/-! #### The round trip (R64) -/

/-- A whole number of units that its register holds without wrapping is read back from it (R8, R20). -/
theorem physVal_physBits_of_units {x : ℚ} {n : Nat} (hreg : (physBits x).toInt = ⌊x * 10 ^ 8⌋)
    (hunits : x * 100000000 = n) : physVal (physBits x) = x := by
  have hfloor : ⌊x * 10 ^ 8⌋ = n := by
    norm_num [hunits]
  rw [physVal, hreg, hfloor, Int.cast_natCast, ← hunits, mul_div_cancel_right₀ _ (by norm_num)]

/-- `FIXED_TO_SCALE` of a word with a class as selector, at the default buckets: the register stands for
the quotient exactly. -/
theorem exec_fixedToScale_default {u : State} {n : Nat} {c : Fin 4} (hb : u.cfg.val.scaleBuckets = {})
    (hn : n < 2 ^ 32) (ha0 : u.a[0].toNat = n) (ha1 : u.a[1].toNat = c) :
    ∃ v, exec .fixedToScale u = .next v ∧ v.err = 0#4 ∧ physVal v.r[0] = n / scaleOf {} c := by
  have hexec := exec_fixedToScale_of_selector (s := u) (raw := n) (d := .ofClass c) (by omega)
    (by rw [selectorOf]; omega)
  obtain ⟨-, -, hnoWrap⟩ := physResultsNeverWrap u.cfg
  have hunits := divideBy_ofClass_units hb n c
  have hexact := physVal_physBits_of_units (hnoWrap n (.ofClass c) hn) hunits
  refine ⟨_, hexec, State.err_complete _, ?_⟩
  simpa [divideBy, hb] using hexact

/-- What `SCALE_TO_FIXED` leaves in its registers when it reports no error. -/
theorem exec_scaleToFixed_completed {s t : State} {c : Fin 4} {n : ℤ}
    (h : ScaledTo s.cfg.val (physVal s.a[0]) c n) (hexec : exec .scaleToFixed s = .next t)
    (herr : t.err = 0#4) :
    0 ≤ n ∧ n ≤ 65535 ∧ (t.r[0].toNat : ℤ) = n ∧ t.r[1].toNat = c := by
  rcases exec_scaleToFixed_cases h with ⟨-, he⟩ | ⟨-, -, he⟩ | ⟨h0, hfits, he⟩
  · obtain rfl := Host.Outcome.next.inj (he.symm.trans hexec)
    exact absurd herr (State.err_raise s _ ▸ errorCode_ne_zero _)
  · obtain rfl := Host.Outcome.next.inj (he.symm.trans hexec)
    exact absurd herr (State.err_raise s _ ▸ errorCode_ne_zero _)
  · obtain rfl := Host.Outcome.next.inj (he.symm.trans hexec)
    have hn := h.nonneg h0
    refine ⟨hn, hfits, ?_, ?_⟩
    · simp
      omega
    · simp
      omega

/-- The scale step of a class, from the list of the four factors. -/
theorem scaleOf_default_getElem? (c : Fin 4) : [(1000 : ℚ), 100, 10, 1][(c : Nat)]? = some (scaleOf {} c) := by
  fin_cases c <;> simp [scaleOf]

/-- A whole quantity scales to a whole number, so that rounding and scaling back return it. -/
theorem roundS_div_of_intCast (mode : ScaleRound) (m : ℤ) {b : ScaleBuckets} {c : Fin 4}
    (h : scaleOf b c ≠ 0) :
    (roundS mode (m * scaleOf b c) : ℚ) / scaleOf b c = m := by
  have hwhole : (m : ℚ) * scaleOf b c = (m * b.factor[c] : ℤ) := by
    rw [scaleOf]
    push_cast
    rfl
  rw [hwhole, roundS_intCast, ← hwhole, mul_div_cancel_right₀ _ h]

/-- Settles O31: the word is the rounded product and comes back divided by the same factor, so only the
rounding shows. -/
theorem scalerRoundTrip : Obligations.ScalerRoundTrip := by
  intro s t u x y scale hb hx hexec herr hcfg ha0 ha1 hscale hy
  obtain rfl : x = physVal s.a[0] := hx.trans (quantisationOfQuantities.1 _).symm
  obtain ⟨hn0, hn, hr0, hr1⟩ := exec_scaleToFixed_completed (scaledTo_iff.2 ⟨rfl, rfl⟩) hexec herr
  rw [hb] at hn0 hn hr0 hr1
  rw [hr1, scaleOf_default_getElem?, Option.some_inj] at hscale
  subst hscale
  have hpos := scaleOf_default_pos (classOf {} (physVal s.a[0]))
  obtain ⟨v, hv, hverr, hval⟩ := exec_fixedToScale_default (hcfg ▸ hb) (by omega)
    (congrArg BitVec.toNat ha0) ((congrArg BitVec.toNat ha1).trans hr1)
  refine ⟨v, hv, hverr, ((quantisationOfQuantities.1 _).symm.trans hval).trans hy.symm, ?_⟩
  have hyround : y = roundS s.cfg.val.scaleRound (physVal s.a[0] * scaleOf {} (classOf {} (physVal s.a[0]))) /
      scaleOf {} (classOf {} (physVal s.a[0])) := by
    rw [hy, ← hr0, Int.cast_natCast]
  rw [hyround]
  refine ⟨fun hmode => ?_, fun hmode => ?_, fun hwhole => ?_⟩
  · rw [hmode]
    exact abs_roundS_nearest_div_sub_le _ hpos
  · rw [hmode]
    exact sub_roundS_truncate_div_bounds _ hpos
  · obtain ⟨m, hm⟩ : ∃ m : ℤ, physVal s.a[0] = m := by
      rcases hwhole with h | h | h | h
      · exact ⟨1, by simpa using h⟩
      · exact ⟨10, by simpa using h⟩
      · exact ⟨100, by simpa using h⟩
      · exact ⟨499, by simpa using h⟩
    rw [hm] at hpos ⊢
    exact roundS_div_of_intCast _ m hpos.ne'

end Sys2Proof.Machine

/-! ### Proofs for 41_frame_codec.md: the two frames the block builds, and the response it parses -/

namespace Sys2Proof.Machine

/-! #### A build that completes (R18, R66, R67) -/

/-- A built format stands in `TXBUF` from byte 0 on, and every other byte keeps its value (R18). -/
theorem finish_send_bytes (s : State) {bytes : List Byte} {n : Nat} (hlen : bytes.length = n) :
    (∀ k < n, bytes[k]? = some ((s.finish (.ok (s.send bytes))).txByte k)) ∧
    ∀ k, n ≤ k → (s.finish (.ok (s.send bytes))).txByte k = s.txByte k := by
  subst hlen
  obtain ⟨-, hbyte⟩ := finish_send s bytes
  refine ⟨fun k hk => ?_, fun k hk => ?_⟩
  · rw [hbyte, dif_pos hk, List.getElem?_eq_getElem hk]
  · rw [hbyte, dif_neg (Nat.not_lt.2 hk)]

/-- Settles O36: the eight constant bytes are a built format of their own. -/
theorem buildPollFrame : Obligations.BuildPollFrame := by
  intro s
  obtain ⟨-, -, -, -, -, -, hlen, -⟩ := s.cfg.lengths
  obtain ⟨hstate, -⟩ := finish_send s s.cfg.val.pollFrame
  rw [hlen] at hstate
  exact ⟨s.finish (.ok (s.send s.cfg.val.pollFrame)), rfl, hstate, finish_send_bytes s hlen⟩

/-! #### `BUILD_SET_OUTPUT` (R66) -/

/-- The end of scaling a quantity is picked by its sign and by its scaled integer (R60). -/
theorem scaleWord_of_scaledTo {cfg : Config} {x : ℚ} {c : Fin 4} {n : ℤ} (operand : OperandIx)
    (h : ScaledTo cfg x c n) :
    (x < 0 → scaleWord cfg operand x = .error (.outOfRange operand .negative)) ∧
    (0 ≤ x → 65535 < n → scaleWord cfg operand x = .error (.outOfRange operand .above16Bits)) ∧
    (0 ≤ x → n ≤ 65535 → scaleWord cfg operand x = .ok (BitVec.ofInt 16 n, c)) := by
  obtain ⟨rfl, rfl⟩ := scaledTo_iff.1 h
  rcases scaleWord_cases cfg operand x with ⟨hneg, he⟩ | ⟨h0, hbig, he⟩ | ⟨h0, hfits, hok⟩
  · exact ⟨fun _ => he, fun h => absurd hneg (not_lt.2 h), fun h => absurd hneg (not_lt.2 h)⟩
  · exact ⟨fun h => absurd h0 (not_le.2 h), fun _ _ => he, fun _ h => absurd hbig (not_lt.2 h)⟩
  · exact ⟨fun h => absurd h0 (not_le.2 h), fun _ h => absurd hfits (not_le.2 h), fun _ _ => hok⟩

section
variable {s : State} {v w : Word × Fin 4} {e : OpError}

/-- A voltage that does not scale ends the operation, whatever the current (R97). -/
theorem exec_buildSetOutput_of_voltage_error (hv : scaleWord s.cfg.val .a0 (physVal s.a[0]) = .error e) :
    exec .buildSetOutput s = .next (s.raise e) := by
  rw [exec, execBuildSetOutput, hv]
  rfl

/-- The current is looked at when the voltage has scaled (R97). -/
theorem exec_buildSetOutput_of_current_error (hv : scaleWord s.cfg.val .a0 (physVal s.a[0]) = .ok v)
    (hi : scaleWord s.cfg.val .a1 (physVal s.a[1]) = .error e) :
    exec .buildSetOutput s = .next (s.raise e) := by
  rw [exec, execBuildSetOutput, hv, hi]
  rfl

theorem exec_buildSetOutput_of_ok (hv : scaleWord s.cfg.val .a0 (physVal s.a[0]) = .ok v)
    (hi : scaleWord s.cfg.val .a1 (physVal s.a[1]) = .ok w) :
    exec .buildSetOutput s = .next (s.finish
      (.ok (s.send (setOutputFrame s.cfg.val v.1 w.1 (pfWord s.cfg.val (s.operand 2 8)))))) := by
  rw [exec, execBuildSetOutput, hv, hi]
  rfl

end

/-- Settles O33: the voltage's end of scaling comes first; the current's counts when the voltage has a word. -/
theorem buildSetOutputErrorsInOrder : Obligations.BuildSetOutputErrorsInOrder := by
  intro s xv xi cv ci nv ni hxv hxi hv hi
  obtain rfl : xv = physVal s.a[0] := hxv.trans (quantisationOfQuantities.1 _).symm
  obtain rfl : xi = physVal s.a[1] := hxi.trans (quantisationOfQuantities.1 _).symm
  obtain ⟨hvNegative, hvAbove, hvFits⟩ := scaleWord_of_scaledTo .a0 hv
  obtain ⟨hiNegative, hiAbove, -⟩ := scaleWord_of_scaledTo .a1 hi
  refine ⟨fun h => ?_, fun h0 h => ?_, fun h0 hn h => ?_, fun h0 hn h0' h => ?_⟩
  · exact exec_buildSetOutput_of_voltage_error (hvNegative h)
  · exact exec_buildSetOutput_of_voltage_error (hvAbove h0 h)
  · exact exec_buildSetOutput_of_current_error (hvFits h0 hn) (hiNegative h)
  · exact exec_buildSetOutput_of_current_error (hvFits h0 hn) (hiAbove h0' h)

/-- The bytes of a scaled integer sent for three phases (R47). -/
theorem phaseWords_ofInt (c : Config.Built) (n : ℤ) :
    phaseWords c.val (BitVec.ofInt 16 n) =
      [BitVec.ofInt 8 (n / 256), BitVec.ofInt 8 n, BitVec.ofInt 8 (n / 256), BitVec.ofInt 8 n,
       BitVec.ofInt 8 (n / 256), BitVec.ofInt 8 n] := by
  obtain ⟨hhigh, hlow⟩ := bytes_of_ofInt n
  rw [phaseWords_eq, hhigh, hlow]

/-- Settles O32: the body is `setOutputBody` of the three words, and `TRAILER_FN` at it is the trailer. -/
theorem buildSetOutputFrame : Obligations.BuildSetOutputFrame := by
  intro s xv xi cv ci nv ni wp body trailer hxv hxi hv hi hv0 hvn hi0 hin hwp hbody htrailer
  obtain rfl : xv = physVal s.a[0] := hxv.trans (quantisationOfQuantities.1 _).symm
  obtain rfl : xi = physVal s.a[1] := hxi.trans (quantisationOfQuantities.1 _).symm
  obtain ⟨-, -, hvFits⟩ := scaleWord_of_scaledTo .a0 hv
  obtain ⟨-, -, hiFits⟩ := scaleWord_of_scaledTo .a1 hi
  have hexec := exec_buildSetOutput_of_ok (hvFits hv0 hvn) (hiFits hi0 hin)
  have hbody' : body = setOutputBody s.cfg.val (BitVec.ofInt 16 nv) (BitVec.ofInt 16 ni) wp := by
    rw [hbody, setOutputBody, phaseWords_ofInt, phaseWords_ofInt, phaseWords_eq]
  have hframe : setOutputFrame s.cfg.val (BitVec.ofInt 16 nv) (BitVec.ofInt 16 ni) wp = body ++ trailer := by
    rw [setOutputFrame, ← hbody', (trailerOf_eq_iff s.cfg body trailer).2 htrailer]
  have hlen : (body ++ trailer).length = s.cfg.val.setLen := hframe ▸ setOutputFrame_length s.cfg _ _ _
  obtain ⟨hstate, -⟩ := finish_send s (body ++ trailer)
  rw [hlen] at hstate
  rw [← hwp, hframe] at hexec
  exact ⟨_, hexec, hstate, hlen, finish_send_bytes s hlen⟩

/-! #### The fields of a response (R68) -/

/-- A length holds the three fields of a group exactly when it reaches the group's end. -/
theorem fieldsEnd_le_iff (off : Vector Nat 3) (w n : Nat) :
    fieldsEnd off w ≤ n ↔ ∀ p : Fin 3, off[p] + w ≤ n := by
  rw [fieldsEnd, max_le_iff, max_le_iff, Fin.forall_fin_succ, Fin.forall_fin_two]
  rfl

/-- Settles O37: the minimum is the greatest of the three groups' ends. -/
theorem responseMinimumIsLeast : Obligations.ResponseMinimumIsLeast := by
  intro c n
  rw [Config.respMinLen, max_le_iff, max_le_iff, fieldsEnd_le_iff, fieldsEnd_le_iff, fieldsEnd_le_iff,
    forall_and, forall_and]

/-- A field of at most four bytes holds a 32-bit integer. -/
theorem State.memRead_lt_of_width_le_four (s : State) (off : Nat) {w : Nat} (hw : w ≤ 4) :
    s.memRead off w < 2 ^ 32 :=
  calc s.memRead off w < 256 ^ w := s.memRead_lt off w
    _ ≤ 256 ^ 4 := Nat.pow_le_pow_right (by decide) hw
    _ = 2 ^ 32 := by norm_num

/-! #### `PARSE_OUTPUT_RESPONSE` (R69) -/

section
variable {s : State}

/-- A length above the buffer's is tested first. -/
theorem exec_parseOutputResponse_of_long (h : 256 < s.rxlen.toNat) :
    exec .parseOutputResponse s = .next (s.raise (.badOperand .rxlen)) := by
  have hlong : s.rxlen.toNat > Config.bufCap := h
  rw [exec, execParseOutputResponse, if_pos hlong]
  rfl

theorem exec_parseOutputResponse_of_short (hle : s.rxlen.toNat ≤ 256)
    (h : s.rxlen.toNat < s.cfg.val.respMinLen) :
    exec .parseOutputResponse s =
      .next (s.raise (.shortFrame s.rxlen (BitVec.ofNat 16 s.cfg.val.respMinLen))) := by
  have hlong : ¬ s.rxlen.toNat > Config.bufCap := Nat.not_lt.2 hle
  rw [exec, execParseOutputResponse, if_neg hlong, if_pos h]
  rfl

theorem exec_parseOutputResponse_of_fits (hle : s.rxlen.toNat ≤ 256)
    (h : s.cfg.val.respMinLen ≤ s.rxlen.toNat) :
    exec .parseOutputResponse s = .next (State.complete { s with r := responseResults s }) := by
  have hlong : ¬ s.rxlen.toNat > Config.bufCap := Nat.not_lt.2 hle
  rw [exec, execParseOutputResponse, if_neg hlong, if_neg (Nat.not_lt.2 h)]
  rfl

end

/-- The shortest response's length is a word, so that `ERRINFO` shows it whole (R24, R96). -/
theorem errorInfo_shortFrame_respMinLen (c : Config.Built) (n : Word) :
    errorInfo (.shortFrame n (BitVec.ofNat 16 c.val.respMinLen)) =
      BitVec.ofNat 32 (n.toNat * 65536 + c.val.respMinLen) := by
  obtain ⟨-, -, -, hmin⟩ := c.response
  rw [errorInfo, BitVec.toNat_ofNat, Nat.mod_eq_of_lt (by omega)]

/-- Settles O38: the two length tests in their order, then the lanes of each phase. -/
theorem parseOutputResponseResult : Obligations.ParseOutputResponseResult := by
  rintro s n rfl
  refine ⟨exec_parseOutputResponse_of_long, fun hle hshort => ?_, fun hle hfits => ?_⟩
  · rw [exec_parseOutputResponse_of_short hle hshort, State.raise_eq, errorInfo_shortFrame_respMinLen,
      errorCode, statusWord_shortFrame]
  · refine ⟨_, exec_parseOutputResponse_of_fits hle hfits, rfl, fun p => ?_⟩
    obtain ⟨hV, hI, hraw, hlabel⟩ := responseResults_getElem? s p
    obtain ⟨-, -, ⟨-, hwidth⟩, -⟩ := s.cfg.response
    have hlt : laneRaw s p < 2 ^ 32 := s.memRead_lt_of_width_le_four _ hwidth
    rw [State.complete_r, hV, hI, hraw, hlabel, laneV, laneI, physBits_eq, physBits_eq, Option.map_some,
      BitVec.toNat_ofNat, Nat.mod_eq_of_lt (by omega)]
    exact ⟨rfl, rfl, rfl, rfl⟩

/-! #### The lanes of a parse and the scaler's own operations (R46, R69, R71) -/

/-- Given a field's integer and a divisor's selector, `FIXED_TO_SCALE` completes with the quotient. -/
theorem exec_fixedToScale_of_field {u v : State} {raw : Nat} {d : Divisor} (hraw : raw < 2 ^ 32)
    (ha0 : u.a[0].toNat = raw) (ha1 : u.a[1].toNat = selectorOf d) (hexec : exec .fixedToScale u = .next v) :
    v.err = 0#4 ∧ v.r[0] = physBits (divideBy u.cfg.val raw d) := by
  have hselector : selectorOf d < 8 := by
    cases d with
    | ofClass c => exact c.isLt.trans (by decide)
    | voltage => decide
    | current => decide
  have hends := exec_fixedToScale_of_selector (s := u) (raw := raw) (d := d)
    (by rw [ha0, Nat.mod_eq_of_lt hraw]) (by rw [ha1, Nat.mod_eq_of_lt hselector])
  obtain rfl := Host.Outcome.next.inj (hends.symm.trans hexec)
  exact ⟨State.err_complete _, by simp⟩

/-- Settles O39: the operand registers hold the field's integer whole, since a field is at most four bytes. -/
theorem parseLanesAreScalerResults : Obligations.ParseLanesAreScalerResults := by
  intro s t u v p hparse herr hcfg
  obtain ⟨hV, hI, hraw, hlabel⟩ := responseResults_getElem? s p
  obtain ⟨⟨-, hwV⟩, ⟨-, hwI⟩, ⟨-, hwPf⟩, -⟩ := s.cfg.response
  rw [exec_parseOutputResponse_completed hparse herr, hV, hI, hraw, hlabel]
  refine ⟨fun ha0 ha1 hexec => ?_, fun ha0 ha1 hexec => ?_, fun ha0 hexec => ?_⟩
  · obtain ⟨hverr, hr0⟩ := exec_fixedToScale_of_field (s.memRead_lt_of_width_le_four _ hwV) ha0 ha1 hexec
    rw [hr0, hcfg, laneV]
    exact ⟨hverr, rfl⟩
  · obtain ⟨hverr, hr0⟩ := exec_fixedToScale_of_field (s.memRead_lt_of_width_le_four _ hwI) ha0 ha1 hexec
    rw [hr0, hcfg, laneI]
    exact ⟨hverr, rfl⟩
  · have hlt : laneRaw s p < 2 ^ 32 := s.memRead_lt_of_width_le_four _ hwPf
    have ha0' : u.a[0].toNat = laneRaw s p := ha0
    have hends := exec_decodePf (s := u) (raw := laneRaw s p) (by rw [ha0', Nat.mod_eq_of_lt hlt])
    obtain rfl := Host.Outcome.next.inj (hends.symm.trans hexec)
    refine ⟨?_, ?_⟩
    · rw [← ha0', BitVec.ofNat_toNat, BitVec.setWidth_eq]
    · rw [hcfg, laneLabel]
      simp

end Sys2Proof.Machine

/-! ### Proofs for 42_meter_payload.md: wire addresses, the two payloads, register values, and the mock meter -/

namespace Sys2Proof.Machine

/-! #### Operands and wire addresses that fit a word (R35, R36, R45) -/

section
variable {s : State} {a : Nat}

/-- The map of R35 on the number `A0[15:0]`. -/
theorem wireSum_operand (ha : a = s.a[0].toNat % 65536) :
    wireSum s.cfg.val (s.operand 0 16) =
      if a = s.cfg.val.specialAddr.toNat then a + s.cfg.val.baseSpecial.toNat
      else a + s.cfg.val.baseDefault.toNat := by
  obtain rfl : (s.operand 0 16).toNat = a := (s.toNat_operand_word 0).trans ha.symm
  simp only [wireSum, ← BitVec.toNat_inj]

/-- The end of an operation whose address overflows (R36, R96). -/
theorem raise_addrOverflow_operand (ha : a = s.a[0].toNat % 65536) :
    s.raise (.addrOverflow (s.operand 0 16)) = { s with status := 0x86#8, errinfo := BitVec.ofNat 32 a } := by
  obtain rfl : (s.operand 0 16).toNat = a := (s.toNat_operand_word 0).trans ha.symm
  rw [State.raise_eq, errorCode, statusWord_addrOverflow, errorInfo, BitVec.ofNat_toNat]

end

/-- Settles O41: the two ends of `WIRE_ADDR` exclude each other. -/
theorem wireAddrResult : Obligations.WireAddrResult := by
  intro s a w ha hw
  obtain rfl : wireSum s.cfg.val (s.operand 0 16) = w := (wireSum_operand ha).trans hw.symm
  rcases exec_wireAddr_cases s with ⟨hle, hexec⟩ | ⟨hlt, hexec⟩
  · exact ⟨fun _ => hexec, fun h => absurd hle (Nat.not_le.2 h)⟩
  · refine ⟨fun h => absurd hlt (Nat.not_lt.2 h), fun _ => ?_⟩
    rw [hexec, raise_addrOverflow_operand ha]

/-! #### The read and write payloads (R51, R52, R74, R79) -/

/-- The two bytes of a number that stand at an offset. -/
theorem SpellsAt.word {tx : Nat → Byte} {off n : Nat} (h : SpellsAt tx off (beBytes 2 n)) :
    tx off = BitVec.ofNat 8 (n / 256) ∧ tx (off + 1) = BitVec.ofNat 8 n := by
  rw [beBytes_two, spellsAt_cons, spellsAt_cons] at h
  obtain ⟨hhigh, hlow, -⟩ := h
  exact ⟨hhigh.symm, hlow.symm⟩

section
variable {cfg : Config} {a : Word}

/-- A sum of at most 16 bits is the wire address whole (R36). -/
theorem wireAddrOf_of_fits (h : wireSum cfg a ≤ 0xFFFF) :
    ∃ w : Word, wireAddrOf cfg a = .ok w ∧ w.toNat = wireSum cfg a :=
  ⟨_, if_neg (Nat.not_lt.2 h), by rw [BitVec.toNat_ofNat, Nat.mod_eq_of_lt (by omega)]⟩

theorem wireAddrOf_of_overflow (h : 0xFFFF < wireSum cfg a) : wireAddrOf cfg a = .error (.addrOverflow a) :=
  if_pos h

end

section
variable {s : State}

/-- `BUILD_READ` of an address that fits sends the two bytes of the wire address. -/
theorem exec_buildRead_of_fits (h : wireSum s.cfg.val (s.operand 0 16) ≤ 0xFFFF) :
    exec .buildRead s = .next (s.finish (.ok (s.send (beBytes 2 (wireSum s.cfg.val (s.operand 0 16)))))) := by
  obtain ⟨-, -, hword, -⟩ := s.cfg.layout
  obtain ⟨w, hw, hsum⟩ := wireAddrOf_of_fits h
  rw [← hsum, ← hword, exec, execBuildRead, hw]
  rfl

theorem exec_buildRead_of_overflow (h : 0xFFFF < wireSum s.cfg.val (s.operand 0 16)) :
    exec .buildRead s = .next (s.raise (.addrOverflow (s.operand 0 16))) := by
  rw [exec, execBuildRead, wireAddrOf_of_overflow h]
  rfl

/-- `BUILD_WRITE` to an address that fits sends the value, the suffix and the wire address. -/
theorem exec_buildWrite_of_fits (h : wireSum s.cfg.val (s.operand 0 16) ≤ 0xFFFF) :
    exec .buildWrite s = .next (s.finish (.ok (s.send
      (beBytes 2 (s.operand 1 16).toNat ++ s.cfg.val.writeSuffix ++
        beBytes 2 (wireSum s.cfg.val (s.operand 0 16)))))) := by
  obtain ⟨-, -, hword, -⟩ := s.cfg.layout
  obtain ⟨w, hw, hsum⟩ := wireAddrOf_of_fits h
  rw [← hsum, ← hword, exec, execBuildWrite, hw]
  rfl

theorem exec_buildWrite_of_overflow (h : 0xFFFF < wireSum s.cfg.val (s.operand 0 16)) :
    exec .buildWrite s = .next (s.raise (.addrOverflow (s.operand 0 16))) := by
  rw [exec, execBuildWrite, wireAddrOf_of_overflow h]
  rfl

end

/-- The end of a build of `n` bytes (R18): the state, the bytes sent from byte 0 on, and the bytes kept. -/
theorem finish_send_spells (s : State) {bytes : List Byte} {n : Nat} (hlen : bytes.length = n) :
    s.finish (.ok (s.send bytes)) =
      { s with txbuf := (s.finish (.ok (s.send bytes))).txbuf, txlen := BitVec.ofNat 16 n,
               status := 0x80#8, errinfo := 0#32 } ∧
    SpellsAt (s.finish (.ok (s.send bytes))).txByte 0 bytes ∧
    ∀ k, n ≤ k → (s.finish (.ok (s.send bytes))).txByte k = s.txByte k := by
  obtain ⟨hstate, -⟩ := finish_send s bytes
  obtain ⟨-, hrest⟩ := finish_send_bytes s hlen
  exact ⟨hlen ▸ hstate, spellsAt_txByte_send s bytes, hrest⟩

/-- Settles O42: the payload is the two bytes of the wire sum. -/
theorem buildReadPayload : Obligations.BuildReadPayload := by
  intro s a w ha hw
  obtain rfl : wireSum s.cfg.val (s.operand 0 16) = w := (wireSum_operand ha).trans hw.symm
  refine ⟨fun hle => ?_, fun hlt => ?_⟩
  · obtain ⟨hstate, hspells, hrest⟩ := finish_send_spells s (beBytes_length 2 _)
    obtain ⟨hhigh, hlow⟩ := hspells.word
    exact ⟨_, exec_buildRead_of_fits hle, hstate, hhigh, hlow, hrest⟩
  · rw [exec_buildRead_of_overflow hlt, raise_addrOverflow_operand ha]

/-- The parts of a write payload stand at 0, 2 and 6 (R52). -/
theorem SpellsAt.writeParts {tx : Nat → Byte} {suffix : List Byte} {v w : Nat} (hlen : suffix.length = 4)
    (h : SpellsAt tx 0 (beBytes 2 v ++ suffix ++ beBytes 2 w)) :
    SpellsAt tx 0 (beBytes 2 v) ∧ suffix = [tx 2, tx 3, tx 4, tx 5] ∧ SpellsAt tx 6 (beBytes 2 w) := by
  obtain ⟨hfront, hwire⟩ := spellsAt_append.1 h
  obtain ⟨hvalue, hsuffix⟩ := spellsAt_append.1 hfront
  have hfour := hsuffix.offset_eq (off' := 2) (by simp)
  rw [SpellsAt, hlen] at hfour
  exact ⟨hvalue, hfour, hwire.offset_eq (by simp [hlen])⟩

/-- Settles O47: the payload's three parts stand one behind the other. -/
theorem buildWritePayload : Obligations.BuildWritePayload := by
  intro s a v w ha hv hw
  obtain rfl : wireSum s.cfg.val (s.operand 0 16) = w := (wireSum_operand ha).trans hw.symm
  obtain rfl : (s.operand 1 16).toNat = v := (s.toNat_operand_word 1).trans hv.symm
  refine ⟨fun hle => ?_, fun hlt => ?_⟩
  · obtain ⟨-, -, -, -, -, -, -, hsuffixLen⟩ := s.cfg.lengths
    have hlen : (beBytes 2 (s.operand 1 16).toNat ++ s.cfg.val.writeSuffix ++
        beBytes 2 (wireSum s.cfg.val (s.operand 0 16))).length = 8 := by
      simp [hsuffixLen]
    obtain ⟨hstate, hspells, hrest⟩ := finish_send_spells s hlen
    obtain ⟨hvalue, hsuffix, hwire⟩ := SpellsAt.writeParts hsuffixLen hspells
    obtain ⟨hv0, hv1⟩ := hvalue.word
    obtain ⟨hw6, hw7⟩ := hwire.word
    exact ⟨_, exec_buildWrite_of_fits hle, hstate, hv0, hv1, hsuffix, hw6, hw7, hrest⟩
  · rw [exec_buildWrite_of_overflow hlt, raise_addrOverflow_operand ha]

/-! #### `PARSE_READ` (R75) -/

/-- A big-endian read of two bytes (R4, R30). -/
theorem State.memRead_two (s : State) (off : Nat) :
    s.memRead off 2 = 256 * (s.rxByte off).toNat + (s.rxByte (off + 1)).toNat :=
  beUint_pair (s.rxByte off) (s.rxByte (off + 1))

section
variable {s : State}

/-- A length above the buffer's is tested first. -/
theorem exec_parseRead_of_long (h : 256 < s.rxlen.toNat) :
    exec .parseRead s = .next (s.raise (.badOperand .rxlen)) := by
  have hlong : s.rxlen.toNat > Config.bufCap := h
  rw [exec, execParseRead, if_pos hlong]
  rfl

/-- Four hex digits are two bytes (R53, R75). -/
theorem exec_parseRead_of_short (h : s.rxlen.toNat < 2) :
    exec .parseRead s = .next (s.raise (.incompleteResponse s.rxlen)) := by
  obtain ⟨-, -, -, -, -, -, hdigits⟩ := s.cfg.layout
  have hlong : ¬ s.rxlen.toNat > Config.bufCap := by simp only [Config.bufCap]; omega
  rw [exec, execParseRead, if_neg hlong, hdigits, if_pos (by omega)]
  rfl

theorem exec_parseRead_of_fits (h2 : 2 ≤ s.rxlen.toNat) (hle : s.rxlen.toNat ≤ 256) :
    exec .parseRead s =
      .next (s.setR 0 (BitVec.ofNat 64 (s.memRead (s.rxlen.toNat - 2) 2))).complete := by
  obtain ⟨-, -, -, -, -, -, hdigits⟩ := s.cfg.layout
  have hlong : ¬ s.rxlen.toNat > Config.bufCap := Nat.not_lt.2 hle
  rw [exec, execParseRead, if_neg hlong, hdigits, if_neg (by omega)]
  rfl

end

/-- Settles O43: the two length tests in their order, then the last two bytes. -/
theorem parseReadResult : Obligations.ParseReadResult := by
  rintro s n rfl
  refine ⟨exec_parseRead_of_long, fun hshort => ?_, fun h2 hle => ?_⟩
  · rw [exec_parseRead_of_short hshort, State.raise_eq, errorCode, statusWord_incompleteResponse, errorInfo,
      BitVec.ofNat_toNat]
  · have hlast : s.rxlen.toNat - 2 + 1 = s.rxlen.toNat - 1 := by omega
    rw [exec_parseRead_of_fits h2 hle, State.memRead_two, hlast]
    rfl

/-! #### `COMBINE_PAIR` (R76, R77) -/

section
variable {s : State}

/-- `COMBINE_PAIR` of a key (R76). -/
theorem exec_combinePair_of_key {m l : ℚ}
    (h : ((s.operand 0 16, s.operand 1 16), (m, l)) ∈ s.cfg.val.pairTable) :
    exec .combinePair s =
      .next (s.setR 0 (physBits (pairValue m l (s.operand 2 16) (s.operand 3 16)))).complete := by
  obtain ⟨hnodup, -⟩ := s.cfg.maps
  have hscales : pairScales s.cfg.val (s.operand 0 16) (s.operand 1 16) = some (m, l) := lookup_of_mem hnodup h
  rw [exec, execCombinePair, hscales]
  rfl

/-- `COMBINE_PAIR` of a pair that is no key (R77). -/
theorem exec_combinePair_of_unknown (h : ∀ e ∈ s.cfg.val.pairTable, e.1 ≠ (s.operand 0 16, s.operand 1 16)) :
    exec .combinePair s = .next (s.raise (.unknownRegisterPair (s.operand 0 16) (s.operand 1 16))) := by
  have hscales : pairScales s.cfg.val (s.operand 0 16) (s.operand 1 16) = none := lookup_eq_none.2 h
  rw [exec, execCombinePair, hscales]
  rfl

end

/-- The Register Pair rule on the numbers the raw operands hold: the fine register gives its high byte. -/
theorem pairValue_operands (s : State) (m l : ℚ) :
    pairValue m l (s.operand 2 16) (s.operand 3 16) =
      ((s.a[3].toNat % 65536 : ℕ) : ℚ) * m + ((s.a[2].toNat / 256 % 256 : ℕ) : ℚ) * l / 256 := by
  have hcoarse : (s.operand 3 16).toNat = s.a[3].toNat % 65536 := s.toNat_operand_word 3
  have hfine : ((s.operand 2 16).extractLsb' 8 8).toNat = s.a[2].toNat / 256 % 256 := by
    have hword : (s.operand 2 16).toNat = s.a[2].toNat % 65536 := s.toNat_operand_word 2
    rw [BitVec.extractLsb'_toNat, hword, Nat.shiftRight_eq_div_pow]
    omega
  rw [pairValue, hcoarse, hfine]

/-- Settles O44: the lookup finds a key's own scales, and nothing for another pair. -/
theorem combinePairResult : Obligations.CombinePairResult := by
  rintro s _ _ rfl rfl
  refine ⟨fun m l x hmem hx => ?_, fun hunknown => ?_⟩
  · rw [exec_combinePair_of_key hmem, pairValue_operands, ← hx, physBits_eq]
    rfl
  · rw [exec_combinePair_of_unknown hunknown, State.raise_eq, errorCode, statusWord_unknownRegisterPair,
      errorInfo]

/-- Settles O45: a pair is a key or it is not, and `(0x0000, 0x0001)` is none by R24 (e). -/
theorem pairLookupFailsClosed : Obligations.PairLookupFailsClosed := by
  intro s t hexec
  by_cases hkey : ∃ e ∈ s.cfg.val.pairTable, e.1 = (s.operand 0 16, s.operand 1 16)
  · obtain ⟨⟨key, m, l⟩, hmem, hkeyEq⟩ := hkey
    obtain rfl : key = (s.operand 0 16, s.operand 1 16) := hkeyEq
    obtain rfl := Host.Outcome.next.inj ((exec_combinePair_of_key hmem).symm.trans hexec)
    have herr := State.err_complete (s.setR 0 (physBits (pairValue m l (s.operand 2 16) (s.operand 3 16))))
    refine ⟨iff_of_true herr ⟨_, hmem, rfl⟩, fun h => absurd herr h, fun h0 h1 => ?_⟩
    rw [h0, h1] at hmem
    exact absurd hmem (s.cfg.zeroOne_not_mem _)
  · have hunknown : ∀ e ∈ s.cfg.val.pairTable, e.1 ≠ (s.operand 0 16, s.operand 1 16) :=
      fun e he heq => hkey ⟨e, he, heq⟩
    obtain rfl := Host.Outcome.next.inj ((exec_combinePair_of_unknown hunknown).symm.trans hexec)
    have herr := s.err_raise (.unknownRegisterPair (s.operand 0 16) (s.operand 1 16))
    exact ⟨iff_of_false (herr ▸ errorCode_ne_zero _) hkey, fun _ => ⟨herr, rfl⟩, fun _ _ => herr⟩

/-! #### `SCALE_SINGLE` (R78) -/

section
variable {s : State}

/-- `SCALE_SINGLE` of a direct-scale address. -/
theorem exec_scaleSingle_of_key {m : ℚ} (h : (s.operand 0 16, m) ∈ s.cfg.val.directScale) :
    exec .scaleSingle s =
      .next ((s.setR 0 (physBits (((s.operand 1 16).toNat : ℚ) * m))).setR 1 1#64).complete := by
  obtain ⟨-, hnodup⟩ := s.cfg.maps
  rw [exec, execScaleSingle, lookup_of_mem hnodup h]
  rfl

/-- `SCALE_SINGLE` of any other address. -/
theorem exec_scaleSingle_of_other (h : ∀ e ∈ s.cfg.val.directScale, e.1 ≠ s.operand 0 16) :
    exec .scaleSingle s = .next ((s.setR 0 ((s.operand 1 16).setWidth 64)).setR 1 0#64).complete := by
  rw [exec, execScaleSingle, lookup_eq_none.2 h]
  rfl

end

/-- Settles O46: the two ends of `SCALE_SINGLE`, with the raw slice as a number. -/
theorem scaleSingleResult : Obligations.ScaleSingleResult := by
  rintro s _ raw rfl hraw
  obtain rfl : (s.operand 1 16).toNat = raw := (s.toNat_operand_word 1).trans hraw.symm
  refine ⟨fun m hmem => ?_, fun hother => ?_⟩
  · rw [exec_scaleSingle_of_key hmem, physBits_eq]
    rfl
  · rw [exec_scaleSingle_of_other hother, ← BitVec.ofNat_toNat]
    rfl

/-! #### `TC16_ENCODE` (R80) -/

/-- `tc16` keeps an integer modulo 65536 (R6). -/
theorem setWidth_tc16 (v : ℤ) : (tc16 v).setWidth 64 = BitVec.ofInt 64 (v % 65536) := by
  have hmod : tc16 v = BitVec.ofInt 16 (v % 65536) := BitVec.eq_of_toNat_eq (by simp [tc16])
  rw [hmod, setWidth_ofInt_word (by omega) (by omega)]

/-- Settles O48: the range test picks the end. -/
theorem tc16EncodeResult : Obligations.Tc16EncodeResult := by
  rintro s v rfl
  refine ⟨fun hlo hhi => ?_, fun hout => ?_⟩
  · rw [exec, execTc16Encode, if_neg (by omega), setWidth_tc16]
    rfl
  · rw [exec, execTc16Encode, if_pos hout]
    rfl

/-! #### Write, then read, with the mock meter (R82, R86, R88) -/

/-- A word written to an operand register is the word an operation reads there (R11, R45). -/
theorem State.operand_setA_word (s : State) (k : Fin 4) (w : Word) :
    (s.setA k (w.setWidth 64)).operand k 16 = w := by
  simp [State.operand]

/-- What a completed build leaves to be sent is what it built (R18, R85). -/
theorem txBytes_finish_send (s : State) {bytes : List Byte} (h : bytes.length < 65536) :
    (s.finish (.ok (s.send bytes))).txBytes = bytes := by
  obtain ⟨hstate, hspells, -⟩ := finish_send_spells s (bytes := bytes) rfl
  have hlen : (s.finish (.ok (s.send bytes))).txlen.toNat = bytes.length := by
    rw [hstate, BitVec.toNat_ofNat, Nat.mod_eq_of_lt h]
  rw [State.txBytes, hlen, List.range_eq_range']
  exact hspells.symm

/-- An exchange that is answered goes on with the answer. -/
theorem exchange_of_answer {α : Type} {peer : Message → Exchange} {ch : Channel} {s : State}
    {bytes : List Byte} (k : List Byte → SeqRun α) (h : peer ⟨ch, s.txBytes⟩ = .answer bytes) :
    exchange peer ch s k = { k bytes with sent := ⟨ch, s.txBytes⟩ :: (k bytes).sent } := by
  rw [exchange, h]

/-- The last two bytes of a presented answer that ends in a word's two bytes are that word (R86 step 4). -/
theorem memRead_presentRx_last (s : State) {p : List Byte} (hp : p.length ≤ 254) (v : Word) :
    (s.presentRx (p ++ beBytes 2 v.toNat)).memRead p.length 2 = v.toNat := by
  have hlen : (p ++ beBytes 2 v.toNat).length = p.length + 2 := by simp
  have hrx := s.rxBytes_presentRx (bytes := p ++ beBytes 2 v.toNat) (by omega)
  rw [State.presentRx_rxlen, hlen, BitVec.toNat_ofNat, Nat.mod_eq_of_lt (by omega), State.rxBytes_add,
    Nat.zero_add] at hrx
  rw [State.memRead, List.append_inj_right hrx (by simp [State.rxBytes]), beUint_beBytes]
  exact Nat.mod_eq_of_lt v.isLt

/-- A host sequence goes on after a build that completes, with the bytes built as its message (R85). -/
theorem afterOp_of_send {i : Instr} {u : State} {bytes : List Byte} (hlen : bytes.length < 65536)
    (h : exec i { u with op := encode i } =
      .next (State.finish { u with op := encode i } (.ok (State.send { u with op := encode i } bytes)))) :
    ∃ t, t.cfg = u.cfg ∧ t.txBytes = bytes ∧
      ∀ {α : Type} (k : State → SeqRun α), afterOp i u k = k t := by
  refine ⟨_, ?_, ?_, fun k => afterOp_of_ok k h (State.err_complete _)⟩
  · rfl
  · exact txBytes_finish_send _ hlen

section
variable {u : State} {a v : Word}

theorem afterOp_buildRead (ha : u.operand 0 16 = a) (h : wireSum u.cfg.val a ≤ 0xFFFF) :
    ∃ t, t.cfg = u.cfg ∧ t.txBytes = beBytes 2 (wireSum u.cfg.val a) ∧
      ∀ {α : Type} (k : State → SeqRun α), afterOp .buildRead u k = k t := by
  subst ha
  exact afterOp_of_send (by simp) (exec_buildRead_of_fits (s := { u with op := encode .buildRead }) h)

theorem afterOp_buildWrite (ha : u.operand 0 16 = a) (hv : u.operand 1 16 = v)
    (h : wireSum u.cfg.val a ≤ 0xFFFF) :
    ∃ t, t.cfg = u.cfg ∧
      t.txBytes = beBytes 2 v.toNat ++ u.cfg.val.writeSuffix ++ beBytes 2 (wireSum u.cfg.val a) ∧
      ∀ {α : Type} (k : State → SeqRun α), afterOp .buildWrite u k = k t := by
  subst ha hv
  obtain ⟨-, -, -, -, -, -, -, hsuffix⟩ := u.cfg.lengths
  exact afterOp_of_send (by simp [hsuffix]) (exec_buildWrite_of_fits (s := { u with op := encode .buildWrite }) h)

/-- A host sequence goes on after an answer that ends in a word: the word is in `R0` (R75, R86). -/
theorem afterOp_parseRead (u : State) {p : List Byte} (hp : p.length ≤ 254) (v : Word) :
    ∃ t, t.cfg = u.cfg ∧ t.r[0] = v.setWidth 64 ∧
      ∀ {α : Type} (k : State → SeqRun α),
        afterOp .parseRead (u.presentRx (p ++ beBytes 2 v.toNat)) k = k t := by
  have hlen : (u.presentRx (p ++ beBytes 2 v.toNat)).rxlen.toNat = p.length + 2 := by
    rw [State.presentRx_rxlen, List.length_append, beBytes_length, BitVec.toNat_ofNat, Nat.mod_eq_of_lt (by omega)]
  have hword : BitVec.ofNat 64 ((u.presentRx (p ++ beBytes 2 v.toNat)).memRead
      ((u.presentRx (p ++ beBytes 2 v.toNat)).rxlen.toNat - 2) 2) = v.setWidth 64 := by
    rw [hlen, Nat.add_sub_cancel, memRead_presentRx_last u hp, BitVec.ofNat_toNat]
  have hends := exec_parseRead_of_fits
    (s := { u.presentRx (p ++ beBytes 2 v.toNat) with op := encode .parseRead })
    (hlen.ge.trans' (by omega)) (hlen.le.trans (by omega))
  refine ⟨_, ?_, ?_, fun k => afterOp_of_ok k hends (State.err_complete _)⟩
  · rfl
  · exact (Vector.getElem_set_self _).trans hword

end

section
variable {s : State} {a v : Word} {peer : Message → Exchange} {p : List Byte}

/-- `write_register` to an address that fits (R88): the payload is sent, and any answer ends it. -/
theorem writeRegister_of_answer {echo : List Byte} (h : wireSum s.cfg.val a ≤ 0xFFFF)
    (hpeer : ∀ m, peer m = .answer echo) :
    ∃ t, t.cfg = s.cfg ∧ writeRegister peer a v s =
      ⟨t, [⟨.mtWrite, beBytes 2 v.toNat ++ s.cfg.val.writeSuffix ++ beBytes 2 (wireSum s.cfg.val a)⟩],
        .value ()⟩ := by
  have ha : ((s.setA 0 (a.setWidth 64)).setA 1 (v.setWidth 64)).operand 0 16 = a :=
    (State.operand_setA_other _ (by decide) _ _).trans (s.operand_setA_word 0 a)
  obtain ⟨t, hcfg, htx, hbuild⟩ := afterOp_buildWrite ha (State.operand_setA_word _ 1 v) h
  refine ⟨t, hcfg, ?_⟩
  rw [writeRegister, hbuild, exchange_of_answer _ (hpeer _), htx]
  rfl

/-- Steps 1 to 5 of R86 with an answer that ends in a word: the request is the wire address, and the raw
word is the answer's. -/
theorem readRaw_of_answer (h : wireSum s.cfg.val a ≤ 0xFFFF) (hp : p.length ≤ 254)
    (hpeer : peer ⟨.mtRead, beBytes 2 (wireSum s.cfg.val a)⟩ = .answer (p ++ beBytes 2 v.toNat)) :
    ∃ t, t.cfg = s.cfg ∧ ∀ {α : Type} (k : Word → State → SeqRun α), readRaw peer a s k =
      { k v t with sent := ⟨.mtRead, beBytes 2 (wireSum s.cfg.val a)⟩ :: (k v t).sent } := by
  obtain ⟨t1, hcfg1, htx, hbuild⟩ := afterOp_buildRead (s.operand_setA_word 0 a) h
  obtain ⟨t, hcfg, hr0, hparse⟩ := afterOp_parseRead t1 hp v
  have hsent : t1.txBytes = beBytes 2 (wireSum s.cfg.val a) := htx
  have hraw : t.r[0].setWidth 16 = v := by
    rw [hr0, BitVec.setWidth_setWidth_of_le _ (by decide), BitVec.setWidth_eq]
  have hfits : (p ++ beBytes 2 v.toNat).length ≤ 256 := by
    rw [List.length_append, beBytes_length]
    omega
  refine ⟨t, hcfg.trans hcfg1, fun k => ?_⟩
  rw [readRaw, hbuild, exchange_of_answer _ (hsent.symm ▸ hpeer), present_of_le hfits, hparse, hraw, hsent]

/-- `read_single_register` with such an answer ends as `SCALE_SINGLE` of the address and the word does. -/
theorem readSingleRegister_of_answer (h : wireSum s.cfg.val a ≤ 0xFFFF) (hp : p.length ≤ 254)
    (hpeer : peer ⟨.mtRead, beBytes 2 (wireSum s.cfg.val a)⟩ = .answer (p ++ beBytes 2 v.toNat)) :
    ∃ u, u.cfg = s.cfg ∧ u.operand 0 16 = a ∧ u.operand 1 16 = v ∧ ∀ w, exec .scaleSingle u = .next w →
      w.err = 0#4 → (readSingleRegister peer a s).ended = .value (w.r[0], w.r[1] == 1#64) := by
  obtain ⟨t, hcfg, hraw⟩ := readRaw_of_answer h hp hpeer
  refine ⟨{ (t.setA 0 (a.setWidth 64)).setA 1 (v.setWidth 64) with op := encode .scaleSingle }, hcfg,
    ?_, State.operand_setA_word _ 1 v, fun w hexec herr => ?_⟩
  · exact (State.operand_setA_other _ (by decide) _ _).trans (t.operand_setA_word 0 a)
  · rw [readSingleRegister, hraw, afterOp_of_ok _ hexec herr]

/-- The value of an address outside `DIRECT_SCALE` is the answer's last word (R78). -/
theorem readSingleRegister_of_other (h : wireSum s.cfg.val a ≤ 0xFFFF) (hp : p.length ≤ 254)
    (hpeer : peer ⟨.mtRead, beBytes 2 (wireSum s.cfg.val a)⟩ = .answer (p ++ beBytes 2 v.toNat))
    (hother : ∀ e ∈ s.cfg.val.directScale, e.1 ≠ a) :
    (readSingleRegister peer a s).ended = .value (v.setWidth 64, false) := by
  obtain ⟨u, hcfg, rfl, rfl, hended⟩ := readSingleRegister_of_answer h hp hpeer
  rw [hended _ (exec_scaleSingle_of_other (hcfg.symm ▸ hother)) (State.err_complete _)]
  simp

/-- The value of a direct-scale address is the answer's last word, scaled (R78). -/
theorem readSingleRegister_of_key {m : ℚ} (h : wireSum s.cfg.val a ≤ 0xFFFF) (hp : p.length ≤ 254)
    (hpeer : peer ⟨.mtRead, beBytes 2 (wireSum s.cfg.val a)⟩ = .answer (p ++ beBytes 2 v.toNat))
    (hkey : (a, m) ∈ s.cfg.val.directScale) :
    (readSingleRegister peer a s).ended = .value (physBits ((v.toNat : ℚ) * m), true) := by
  obtain ⟨u, hcfg, rfl, rfl, hended⟩ := readSingleRegister_of_answer h hp hpeer
  rw [hended _ (exec_scaleSingle_of_key (hcfg.symm ▸ hkey)) (State.err_complete _)]
  simp

end

/-- A number's two bytes are read as the word it is modulo 65536. -/
theorem ofNat_beUint_beBytes_two (n : Nat) : BitVec.ofNat 16 (beUint (beBytes 2 n)) = BitVec.ofNat 16 n := by
  rw [beUint_beBytes]
  exact BitVec.eq_of_toNat_eq (by simp)

/-- The mock meter stores a written value at the wire address of the payload (R82). -/
theorem mockStore_write (store : MeterStore) {suffix : List Byte} (hsuffix : suffix.length = 4) (v : Word)
    (n : Nat) :
    mockStore store ⟨.mtWrite, beBytes 2 v.toNat ++ suffix ++ beBytes 2 n⟩ = (BitVec.ofNat 16 n, v) :: store := by
  have hvalue : (beBytes 2 v.toNat ++ suffix ++ beBytes 2 n).take 2 = beBytes 2 v.toNat := by
    rw [List.append_assoc, List.take_left' (beBytes_length ..)]
  have hwire : ((beBytes 2 v.toNat ++ suffix ++ beBytes 2 n).drop 6).take 2 = beBytes 2 n := by
    rw [List.drop_left' (by simp [hsuffix]), List.take_of_length_le (beBytes_length ..).le]
  rw [mockStore]
  simp only [hvalue, hwire, ofNat_beUint_beBytes_two, BitVec.ofNat_toNat, BitVec.setWidth_eq]

/-- The mock meter answers a read with the newest word at the wire address (R82). -/
theorem mockPeer_read_newest (store : MeterStore) (v : Word) (n : Nat) :
    mockPeer ((BitVec.ofNat 16 n, v) :: store) ⟨.mtRead, beBytes 2 n⟩ = .answer (beBytes 2 v.toNat) := by
  have hwire : (beBytes 2 n).take 2 = beBytes 2 n := List.take_of_length_le (beBytes_length ..).le
  rw [mockPeer]
  simp only [hwire, ofNat_beUint_beBytes_two, List.lookup_cons_self]

/-- Settles O49: the mock meter keeps the word under the wire address that the read asks for, and an echo of
that request is the wire address. -/
theorem writeThenReadRoundTrips : Obligations.WriteThenReadRoundTrips := by
  intro s store a v echo hdefaults ha
  obtain ⟨hfits, -⟩ := wireSum_range_of_atDefaults hdefaults a
  have hle : wireSum s.cfg.val a ≤ 0xFFFF := hfits.2 ha
  obtain ⟨-, -, -, -, -, -, -, hsuffix⟩ := s.cfg.lengths
  obtain ⟨t, hcfg, hwrite⟩ :=
    writeRegister_of_answer (peer := fun _ => .answer echo) (v := v) hle fun _ => rfl
  refine ⟨t, _, hwrite, ?_⟩
  rw [List.foldl_cons, List.foldl_nil, mockStore_write store hsuffix]
  have hmock := mockPeer_read_newest store v (wireSum s.cfg.val a)
  obtain ⟨w, -, hsum⟩ := wireAddrOf_of_fits hle
  rw [← hcfg] at hle hmock hdefaults hsum ⊢
  refine ⟨fun hother => ⟨?_, w, ?_, ?_⟩, fun m hkey => ?_⟩
  · exact readSingleRegister_of_other (p := []) hle (by decide) hmock hother
  · rw [hsum, wireSum_of_atDefaults hdefaults]
    simp only [← BitVec.toNat_inj]
    rfl
  · refine readSingleRegister_of_other (p := []) hle (by decide) ?_ hother
    rw [← hsum]
    rfl
  · rw [← physBits_eq]
    exact readSingleRegister_of_key (p := []) hle (by decide) hmock hkey

end Sys2Proof.Machine

/-! ### Proofs for 43_host_sequences.md: what each sequence sends, and how it ends -/

namespace Sys2Proof.Machine

/-! #### What an operation leaves of the results and of the received bytes (R12, R19, R95) -/

section
variable {i : Instr} {s t : State}

/-- No operation writes what the host has received (R19). -/
theorem received_of_exec (h : exec i s = .next t) :
    t.rxbuf = s.rxbuf ∧ t.rxlen = s.rxlen ∧ t.epoch = s.epoch := by
  obtain ⟨hstate, -⟩ := operationsWriteOnlyTheirResults i s t h
  exact ⟨(congrArg State.rxbuf hstate :), (congrArg State.rxlen hstate :), (congrArg State.epoch hstate :)⟩

/-- An operation with no result register of its own keeps all twelve (R12). -/
theorem r_of_exec_of_no_result (h : exec i s = .next t) (hi : resultsOf i = []) : t.r = s.r := by
  obtain ⟨-, hkeep, -⟩ := operationsWriteOnlyTheirResults i s t h
  exact Vector.ext fun k hk => hkeep ⟨k, hk⟩ (by simp [hi])

/-- An operation whose one result register is `R0` keeps the other eleven (R12). -/
theorem r_of_exec_of_result_r0 (h : exec i s = .next t) (hi : resultsOf i = [0]) : t.r = s.r.set 0 t.r[0] := by
  obtain ⟨-, hkeep, -⟩ := operationsWriteOnlyTheirResults i s t h
  refine Vector.ext fun k hk => ?_
  rcases eq_or_ne k 0 with rfl | hne
  · rw [Vector.getElem_set_self]
  · rw [Vector.getElem_set_ne _ _ hne.symm]
    exact hkeep ⟨k, hk⟩ (by simpa [hi, Fin.ext_iff] using hne)

/-- An operation that reports an error reports one of its own, and has sent nothing (R92, R95). -/
theorem tx_of_exec_of_error (h : exec i s = .next t) (herr : t.err ≠ 0#4) :
    t.err ∈ errorsOf i ∧ t.txbuf = s.txbuf ∧ t.txlen = s.txlen := by
  obtain ⟨r, hends, hexec⟩ := exec_ends i s
  obtain rfl := Host.Outcome.next.inj (hexec.symm.trans h)
  cases hends with
  | completed => exact absurd (State.err_complete _) herr
  | raised hmem => exact ⟨(s.err_raise _).symm ▸ hmem, rfl, rfl⟩

end

/-! #### The steps of a sequence (R83, R85, R91) -/

section
variable {α : Type} {i : Instr} {s t u : State}

theorem startOp_encode (i : Instr) (s : State) : startOp (encode i) s = exec i { s with op := encode i } := by
  simp [startOp]

/-- A sequence that goes on after an operation, whatever follows, goes on from where the operation ended. -/
theorem exec_of_afterOp (h : ∀ k : State → SeqRun Unit, afterOp i u k = k t) :
    exec i { u with op := encode i } = .next t := by
  obtain ⟨r, -, hexec⟩ := exec_ends i { u with op := encode i }
  have hgoesOn := h fun t => ⟨t, [], .value ()⟩
  by_cases herr : (State.finish { u with op := encode i } r).err = 0#4
  · rw [afterOp_of_ok _ hexec herr] at hgoesOn
    obtain rfl : State.finish { u with op := encode i } r = t := congrArg SeqRun.state hgoesOn
    exact hexec
  · rw [afterOp_of_error _ hexec herr] at hgoesOn
    cases congrArg SeqRun.ended hgoesOn

/-- An operation that raises an error ends the sequence with the error's code, and sends nothing (R91, R111). -/
theorem afterOp_of_raise {e : OpError}
    (h : exec i { u with op := encode i } = .next (State.raise { u with op := encode i } e))
    (k : State → SeqRun α) :
    (afterOp i u k).ended = .blockError (errorCode e) ∧ (afterOp i u k).sent = [] := by
  have herr := State.err_raise { u with op := encode i } e
  rw [afterOp_of_error k h (herr ▸ errorCode_ne_zero e), herr]
  exact ⟨rfl, rfl⟩

/-- An operation sends nothing by itself. -/
theorem afterOp_sent_of_unsent {k : State → SeqRun α} (hk : ∀ t, (k t).sent = []) : (afterOp i u k).sent = [] := by
  obtain ⟨r, -, hexec⟩ := exec_ends i { u with op := encode i }
  by_cases herr : (State.finish { u with op := encode i } r).err = 0#4
  · rw [afterOp_of_ok k hexec herr, hk]
  · rw [afterOp_of_error k hexec herr]

/-- Presenting an answer sends nothing, whether it fits `RXBUF` or not (R83, R90). -/
theorem present_sent_of_unsent {bytes : List Byte} {k : State → SeqRun α} (hk : ∀ t, (k t).sent = []) :
    (present bytes s k).sent = [] := by
  by_cases hfits : bytes.length ≤ Config.bufCap
  · rw [present_of_le hfits, hk]
  · rw [present, if_neg hfits]

/-- A message that is lost or never answered is the last one (R85). -/
theorem exchange_of_unanswered {peer : Message → Exchange} {ch : Channel}
    (h : peer ⟨ch, s.txBytes⟩ = .absent ∨ peer ⟨ch, s.txBytes⟩ = .sendFailed) (k : List Byte → SeqRun α) :
    exchange peer ch s k = ⟨s, [⟨ch, s.txBytes⟩], .transportError⟩ := by
  rcases exchange_cases peer ch s k with ⟨-, hends⟩ | ⟨bytes, hanswer, -⟩
  · exact hends
  · simp [hanswer] at h

/-- A build whose bytes nobody answers ends the sequence with those bytes as its one message (R85, R91). -/
theorem endsUnanswered_of_build {peer : Message → Exchange} {bytes : List Byte} {ch : Channel}
    (hi : resultsOf i = []) (htx : t.txBytes = bytes)
    (hbuild : ∀ {β : Type} (k : State → SeqRun β), afterOp i u k = k t)
    (hsilent : peer ⟨ch, bytes⟩ = .absent ∨ peer ⟨ch, bytes⟩ = .sendFailed) (k : State → List Byte → SeqRun α) :
    EndsUnanswered u [⟨ch, bytes⟩] (afterOp i u fun t => exchange peer ch t (k t)) ∧
    (afterOp i u fun t => exchange peer ch t (k t)).state.epoch = u.epoch := by
  subst htx
  have hexec := exec_of_afterOp hbuild
  obtain ⟨hrxbuf, hrxlen, hepoch⟩ := received_of_exec hexec
  have hr := r_of_exec_of_no_result hexec hi
  rw [hbuild, exchange_of_unanswered hsilent]
  exact ⟨⟨rfl, rfl, hr, hrxbuf, hrxlen⟩, hepoch⟩

end

/-- The length of a presented answer that fits `RXBUF` (R86 step 4). -/
theorem State.toNat_rxlen_presentRx (s : State) {bytes : List Byte} (h : bytes.length ≤ 256) :
    (s.presentRx bytes).rxlen.toNat = bytes.length := by
  rw [State.presentRx_rxlen, BitVec.toNat_ofNat, Nat.mod_eq_of_lt (by omega)]

/-- A presented answer stands in `RXBUF` from byte 0 on (R86 step 4). -/
theorem State.getElem?_eq_rxByte_presentRx (s : State) (bytes : List Byte) {k : Nat} (hk : k < bytes.length) :
    bytes[k]? = some ((s.presentRx bytes).rxByte k) := by
  rw [State.rxByte_presentRx, dif_pos hk, List.getElem?_eq_getElem hk]

/-- Any two bytes are those of a word, the high byte first (R4, R5). -/
theorem exists_word_of_bytes (b c : Byte) :
    ∃ v : Word, beBytes 2 v.toNat = [b, c] ∧ v.toNat = 256 * b.toNat + c.toNat ∧ v.extractLsb' 8 8 = b := by
  have hv : (BitVec.ofNat 16 (beUint [b, c])).toNat = beUint [b, c] := by
    rw [BitVec.toNat_ofNat, beUint_pair, Nat.mod_eq_of_lt (by omega)]
  have hbytes : beBytes 2 (BitVec.ofNat 16 (beUint [b, c])).toNat = [b, c] := by
    rw [hv]
    exact beBytes_beUint [b, c]
  refine ⟨_, hbytes, hv.trans (beUint_pair b c), ?_⟩
  rw [beBytes_word] at hbytes
  exact (List.cons.inj hbytes).1

/-! #### The request of a read, and of a write (R86 to R88) -/

section
variable {α : Type} {s : State} {a v : Word} {peer : Message → Exchange}

/-- The address of a write stands in `A0` once the value is in `A1` (R88). -/
theorem operand_address_of_write (s : State) (a v : Word) :
    ((s.setA 0 (a.setWidth 64)).setA 1 (v.setWidth 64)).operand 0 16 = a :=
  (State.operand_setA_other _ (by decide) _ _).trans (s.operand_setA_word 0 a)

theorem readRaw_of_overflow (h : 0xFFFF < wireSum s.cfg.val a) (k : Word → State → SeqRun α) :
    (readRaw peer a s k).ended = .blockError 6#4 ∧ (readRaw peer a s k).sent = [] := by
  have ha : (s.setA 0 (a.setWidth 64)).operand 0 16 = a := s.operand_setA_word 0 a
  exact afterOp_of_raise
    (exec_buildRead_of_overflow (s := { s.setA 0 (a.setWidth 64) with op := encode .buildRead })
      (ha.symm ▸ h)) _

theorem writeRegister_of_overflow (h : 0xFFFF < wireSum s.cfg.val a) :
    (writeRegister peer a v s).ended = .blockError 6#4 ∧ (writeRegister peer a v s).sent = [] := by
  have ha := operand_address_of_write s a v
  exact afterOp_of_raise
    (exec_buildWrite_of_overflow
      (s := { (s.setA 0 (a.setWidth 64)).setA 1 (v.setWidth 64) with op := encode .buildWrite })
      (ha.symm ▸ h)) _

theorem readRaw_of_unanswered (hsilent : ∀ m, peer m = .absent ∨ peer m = .sendFailed)
    (h : wireSum s.cfg.val a ≤ 0xFFFF) (k : Word → State → SeqRun α) :
    EndsUnanswered s [⟨.mtRead, beBytes 2 (wireSum s.cfg.val a)⟩] (readRaw peer a s k) ∧
    (readRaw peer a s k).state.epoch = s.epoch := by
  obtain ⟨t, -, htx, hbuild⟩ := afterOp_buildRead (s.operand_setA_word 0 a) h
  exact endsUnanswered_of_build rfl htx hbuild (hsilent _) _

theorem writeRegister_of_unanswered (hsilent : ∀ m, peer m = .absent ∨ peer m = .sendFailed)
    (h : wireSum s.cfg.val a ≤ 0xFFFF) :
    EndsUnanswered s
      [⟨.mtWrite, beBytes 2 v.toNat ++ s.cfg.val.writeSuffix ++ beBytes 2 (wireSum s.cfg.val a)⟩]
      (writeRegister peer a v s) := by
  obtain ⟨t, -, htx, hbuild⟩ :=
    afterOp_buildWrite (operand_address_of_write s a v) (State.operand_setA_word _ 1 v) h
  exact (endsUnanswered_of_build rfl htx hbuild (hsilent _) _).1

/-- What an answered read leaves behind: the answer in `RXBUF`, and its last word in `R0` (R86). -/
theorem state_of_readRaw_of_answer {p : List Byte} {t : State} (h : wireSum s.cfg.val a ≤ 0xFFFF)
    (hp : p.length ≤ 254)
    (hpeer : peer ⟨.mtRead, beBytes 2 (wireSum s.cfg.val a)⟩ = .answer (p ++ beBytes 2 v.toNat))
    (hread : ∀ k : Word → State → SeqRun Unit, readRaw peer a s k =
      { k v t with sent := ⟨.mtRead, beBytes 2 (wireSum s.cfg.val a)⟩ :: (k v t).sent }) :
    t.r = s.r.set 0 (v.setWidth 64) ∧ t.rxlen.toNat = p.length + 2 ∧
    ∀ k < p.length + 2, (p ++ beBytes 2 v.toNat)[k]? = some (t.rxByte k) := by
  have hlen : (p ++ beBytes 2 v.toNat).length = p.length + 2 := by simp
  have hfits : (p ++ beBytes 2 v.toNat).length ≤ 256 := by omega
  obtain ⟨t1, -, htx, hbuild⟩ := afterOp_buildRead (s.operand_setA_word 0 a) h
  obtain ⟨t2, -, hr0, hparse⟩ := afterOp_parseRead t1 hp v
  have hrequest : t1.txBytes = beBytes 2 (wireSum s.cfg.val a) := htx
  obtain rfl : t2 = t := by
    have hrun := hread fun _ t => ⟨t, [], .stopped⟩
    rw [readRaw, hbuild, exchange_of_answer _ (hrequest ▸ hpeer), present_of_le hfits, hparse] at hrun
    exact congrArg SeqRun.state hrun
  have hr1 := r_of_exec_of_no_result (exec_of_afterOp hbuild) rfl
  have hexec := exec_of_afterOp hparse
  obtain ⟨hrxbuf, hrxlen, hepoch⟩ := received_of_exec hexec
  refine ⟨?_, ?_, fun k hk => ?_⟩
  · rw [r_of_exec_of_result_r0 hexec rfl, hr0]
    exact congrArg (Vector.set · 0 (v.setWidth 64)) hr1
  · rw [hrxlen, ← hlen]
    exact t1.toNat_rxlen_presentRx hfits
  · rw [State.rxByte_congr hrxbuf hepoch]
    exact t1.getElem?_eq_rxByte_presentRx _ (hlen ▸ hk)

end

/-! #### The two round trips of `read_register_pair` (R87) -/

/-- What follows the two reads (R87): the two addresses and the two raw words go to `COMBINE_PAIR`. -/
def combineReads (a1 a2 raw1 raw2 : Word) (s : State) : SeqRun Reg64 :=
  afterOp .combinePair
    ((((s.setA 0 (a1.setWidth 64)).setA 1 (a2.setWidth 64)).setA 2 (raw1.setWidth 64)).setA 3 (raw2.setWidth 64))
    fun t => ⟨t, [], .value t.r[0]⟩

theorem readRegisterPair_eq (peer peer2 : Message → Exchange) (a1 a2 : Word) (s : State) :
    readRegisterPair peer peer2 a1 a2 s =
      readRaw peer a1 s fun raw1 t => readRaw peer2 a2 t (combineReads a1 a2 raw1) := rfl

section
variable {s : State} {a1 a2 v v1 v2 : Word} {peer : Message → Exchange} {p : List Byte}

/-- The operands of `COMBINE_PAIR` are the two addresses and the two raw words (R76, R87). -/
theorem combineReads_eq_afterOp (a1 a2 v1 v2 : Word) (s : State) :
    ∃ u : State, u.cfg = s.cfg ∧ (u.operand 0 16 = a1 ∧ u.operand 1 16 = a2) ∧
      (u.operand 2 16 = v1 ∧ u.operand 3 16 = v2) ∧
      combineReads a1 a2 v1 v2 s = afterOp .combinePair u fun t => ⟨t, [], .value t.r[0]⟩ := by
  refine ⟨_, ?_, ⟨?_, ?_⟩, ⟨?_, ?_⟩, rfl⟩
  · rfl
  all_goals simp only [State.operand_setA_word, State.operand_setA_other, ne_eq, Fin.reduceEq, not_false_eq_true]

theorem combineReads_sent (a1 a2 v1 v2 : Word) (s : State) : (combineReads a1 a2 v1 v2 s).sent = [] :=
  afterOp_sent_of_unsent fun _ => rfl

theorem combineReads_of_key {m l : ℚ} (h : ((a1, a2), (m, l)) ∈ s.cfg.val.pairTable) :
    (combineReads a1 a2 v1 v2 s).ended = .value (physBits (pairValue m l v1 v2)) := by
  obtain ⟨u, hcfg, ⟨rfl, rfl⟩, ⟨rfl, rfl⟩, hrun⟩ := combineReads_eq_afterOp a1 a2 v1 v2 s
  rw [← hcfg] at h
  rw [hrun, afterOp_of_ok _ (exec_combinePair_of_key (s := { u with op := encode .combinePair }) h)
    (State.err_complete _)]
  exact congrArg SeqEnd.value (Vector.getElem_set_self _)

theorem combineReads_of_unknown (h : ∀ e ∈ s.cfg.val.pairTable, e.1 ≠ (a1, a2)) :
    (combineReads a1 a2 v1 v2 s).ended = .blockError 3#4 := by
  obtain ⟨u, hcfg, ⟨rfl, rfl⟩, -, hrun⟩ := combineReads_eq_afterOp a1 a2 v1 v2 s
  rw [← hcfg] at h
  obtain ⟨hended, -⟩ := afterOp_of_raise
    (exec_combinePair_of_unknown (s := { u with op := encode .combinePair }) h)
    fun t => (⟨t, [], .value t.r[0]⟩ : SeqRun Reg64)
  rw [hrun, hended, errorCode]

/-- A first round trip that is answered goes on with the second, from the state it leaves (R87). -/
theorem readRegisterPair_of_answer (h : wireSum s.cfg.val a1 ≤ 0xFFFF) (hp : p.length ≤ 254)
    (hpeer : peer ⟨.mtRead, beBytes 2 (wireSum s.cfg.val a1)⟩ = .answer (p ++ beBytes 2 v.toNat)) :
    ∃ t : State, t.cfg = s.cfg ∧ (t.r = s.r.set 0 (v.setWidth 64) ∧ t.rxlen.toNat = p.length + 2 ∧
      ∀ k < p.length + 2, (p ++ beBytes 2 v.toNat)[k]? = some (t.rxByte k)) ∧
      ∀ peer2 : Message → Exchange, readRegisterPair peer peer2 a1 a2 s =
        { readRaw peer2 a2 t (combineReads a1 a2 v) with
          sent := ⟨.mtRead, beBytes 2 (wireSum s.cfg.val a1)⟩ :: (readRaw peer2 a2 t (combineReads a1 a2 v)).sent } := by
  obtain ⟨t, hcfg, hread⟩ := readRaw_of_answer h hp hpeer
  refine ⟨t, hcfg, state_of_readRaw_of_answer h hp hpeer hread, fun peer2 => ?_⟩
  rw [readRegisterPair_eq, hread]

end

/-! #### `set_output` and `poll_output` (R89, R90) -/

section
variable {s t : State} {peer : Message → Exchange}

/-- A write of `OP` that answers a next state is the operation that ends there (R15). -/
theorem exec_of_startOp {i : Instr} (h : startOp (encode i) s = .next t) :
    exec i { s with op := encode i } = .next t :=
  (startOp_encode i s).symm.trans h

/-- A negative voltage is the first error of `BUILD_SET_OUTPUT` (R60, R97). -/
theorem exec_buildSetOutput_of_negative (h : s.a[0].toInt < 0) :
    exec .buildSetOutput s = .next (s.raise (.outOfRange .a0 .negative)) := by
  have hneg : physVal s.a[0] < 0 := div_neg_of_neg_of_pos (Int.cast_lt_zero.2 h) (by norm_num)
  exact exec_buildSetOutput_of_voltage_error (if_pos hneg)

/-- What a `BUILD_SET_OUTPUT` that completes leaves to be sent is as long as the frame (R24, R66). -/
theorem length_txBytes_of_buildSetOutput (h : exec .buildSetOutput s = .next t) (herr : t.err = 0#4) :
    t.txBytes.length = s.cfg.val.setLen := by
  obtain ⟨hlen, -⟩ :=
    exec_buildSetOutput_completed (scaledTo_iff.2 ⟨rfl, rfl⟩) (scaledTo_iff.2 ⟨rfl, rfl⟩) h herr
  rw [State.txBytes, List.length_map, List.length_range, hlen]

theorem setOutput_of_completed_build {xv xi : Reg64} {l : Byte}
    (h : startOp 0x10#8 (((s.setA 0 xv).setA 1 xi).setA 2 (l.setWidth 64)) = .next t) (herr : t.err = 0#4) :
    (setOutput peer xv xi l s).sent = [⟨.ps, t.txBytes⟩] ∧
    (peer ⟨.ps, t.txBytes⟩ ≠ .sendFailed → (setOutput peer xv xi l s).ended = .value ()) := by
  rw [setOutput, afterOp_of_ok _ (exec_of_startOp (i := .buildSetOutput) h) herr]
  cases peer ⟨.ps, t.txBytes⟩ with
  | sendFailed => exact ⟨rfl, fun h => absurd rfl h⟩
  | absent => exact ⟨rfl, fun _ => rfl⟩
  | answer bytes => exact ⟨rfl, fun _ => rfl⟩

theorem afterOp_buildPoll (s : State) : ∃ t, t.cfg = s.cfg ∧ t.txBytes = s.cfg.val.pollFrame ∧
    ∀ {α : Type} (k : State → SeqRun α), afterOp .buildPoll s k = k t := by
  obtain ⟨-, -, -, -, -, -, hlen, -⟩ := s.cfg.lengths
  exact afterOp_of_send (by omega) rfl

theorem pollOutput_of_unanswered
    (h : peer ⟨.ps, s.cfg.val.pollFrame⟩ = .absent ∨ peer ⟨.ps, s.cfg.val.pollFrame⟩ = .sendFailed) :
    EndsUnanswered s [⟨.ps, s.cfg.val.pollFrame⟩] (pollOutput peer s) := by
  obtain ⟨t, -, htx, hbuild⟩ := afterOp_buildPoll s
  exact (endsUnanswered_of_build rfl htx hbuild h _).1

/-- The poll bytes are the one message, whatever comes (R90). -/
theorem pollOutput_sent (peer : Message → Exchange) (s : State) :
    (pollOutput peer s).sent = [⟨.ps, s.cfg.val.pollFrame⟩] := by
  obtain ⟨t, -, htx, hbuild⟩ := afterOp_buildPoll s
  rw [pollOutput, hbuild, ← htx]
  rcases exchange_cases peer .ps t _ with ⟨-, hrun⟩ | ⟨bytes, -, hrun⟩
  · rw [hrun]
  · rw [hrun, present_sent_of_unsent fun u => afterOp_sent_of_unsent fun _ => rfl]

/-- An answer that fits `RXBUF` ends the poll as its parse ends (R90). -/
theorem pollOutput_of_answer {p : List Byte} (h : peer ⟨.ps, s.cfg.val.pollFrame⟩ = .answer p)
    (hp : p.length ≤ 256) :
    ∃ t : State, t.cfg = s.cfg ∧ (pollOutput peer s).ended =
      (afterOp .parseOutputResponse (t.presentRx p) fun u => ⟨u, [], .value u.r⟩).ended := by
  obtain ⟨t, hcfg, htx, hbuild⟩ := afterOp_buildPoll s
  refine ⟨t, hcfg, ?_⟩
  rw [pollOutput, hbuild, exchange_of_answer _ (htx ▸ h), present_of_le hp]

/-- An answer too short for the fields ends the poll with `ShortFrame` (R68, R90). -/
theorem pollOutput_of_short {p : List Byte} (h : peer ⟨.ps, s.cfg.val.pollFrame⟩ = .answer p)
    (hshort : p.length < s.cfg.val.respMinLen) : (pollOutput peer s).ended = .blockError 2#4 := by
  obtain ⟨-, -, -, hmin⟩ := s.cfg.response
  have hp : p.length ≤ 256 := by omega
  obtain ⟨t, hcfg, hrun⟩ := pollOutput_of_answer h hp
  have hlen := t.toNat_rxlen_presentRx hp
  rw [← hcfg, ← hlen] at hshort
  obtain ⟨hended, -⟩ := afterOp_of_raise (exec_parseOutputResponse_of_short
    (s := { t.presentRx p with op := encode .parseOutputResponse }) (hlen.le.trans hp) hshort)
    fun u => (⟨u, [], .value u.r⟩ : SeqRun (Vector Reg64 12))
  rw [hrun, hended, errorCode]

/-- An answer that reaches the last field and fits `RXBUF` gives the twelve results of its parse (R69, R90). -/
theorem pollOutput_of_fits {p : List Byte} (h : peer ⟨.ps, s.cfg.val.pollFrame⟩ = .answer p)
    (hp : p.length ≤ 256) (hlong : s.cfg.val.respMinLen ≤ p.length) :
    ∃ t : State, t.cfg = s.cfg ∧ (pollOutput peer s).ended = .value (responseResults (t.presentRx p)) := by
  obtain ⟨t, hcfg, hrun⟩ := pollOutput_of_answer h hp
  have hlen := t.toNat_rxlen_presentRx hp
  rw [← hcfg, ← hlen] at hlong
  refine ⟨t, hcfg, ?_⟩
  rw [hrun, afterOp_of_ok _ (exec_parseOutputResponse_of_fits
    (s := { t.presentRx p with op := encode .parseOutputResponse }) (hlen.le.trans hp) hlong)
    (State.err_complete _)]
  rfl

/-- A state that holds the answer's bytes, and no more, has received what presenting the answer leaves (R19). -/
theorem sameReceived_presentRx {u : State} {p : List Byte} (hlen : u.rxlen.toNat = p.length)
    (hp : p.length ≤ 256) (hrx : ∀ k < p.length, p[k]? = some (u.rxByte k)) :
    SameReceived u (t.presentRx p) := by
  refine ⟨BitVec.eq_of_toNat_eq (hlen.trans (t.toNat_rxlen_presentRx hp).symm), fun k hk => ?_⟩
  rw [hlen] at hk
  exact Option.some.inj ((hrx k hk).symm.trans (t.getElem?_eq_rxByte_presentRx p hk))

end

/-! #### How the sequences end (R85 to R91) -/

/-- Settles O50: each sequence stops at the message nobody answers, and the state it stops in is the end of a
build, which writes no result register and no received byte. -/
theorem absentAnswerEndsTheSequence : Obligations.AbsentAnswerEndsTheSequence := by
  intro s peer hsilent
  refine ⟨fun a ha => ⟨(readRaw_of_unanswered hsilent ha _).1, fun a2 peer2 => (readRaw_of_unanswered hsilent ha _).1,
    fun v => writeRegister_of_unanswered hsilent ha⟩, pollOutput_of_unanswered (hsilent _), ?_, ?_⟩
  · intro xv xi l t hstart herr hfailed
    have hexec := exec_of_startOp (i := .buildSetOutput) hstart
    obtain ⟨hrxbuf, hrxlen, -⟩ := received_of_exec hexec
    have hr := r_of_exec_of_no_result hexec rfl
    rw [setOutput, afterOp_of_ok _ hexec herr, hfailed]
    exact ⟨rfl, rfl, hr, hrxbuf, hrxlen⟩
  · rintro a1 a2 p b c _ h1 h2 hp rfl
    obtain ⟨v, hbytes, hv, -⟩ := exists_word_of_bytes b c
    rw [← hbytes]
    obtain ⟨t, hcfg, ⟨hr, hrxlen, hrx⟩, hrun⟩ :=
      readRegisterPair_of_answer (peer := fun _ => .answer (p ++ beBytes 2 v.toNat)) h1 hp rfl
    rw [← hcfg] at h2
    obtain ⟨⟨hended, hsent, hr', hrxbuf', hrxlen'⟩, hepoch'⟩ :=
      readRaw_of_unanswered hsilent h2 (combineReads a1 a2 v)
    rw [hrun]
    refine ⟨hended, ?_, ?_, hrxlen' ▸ hrxlen, fun k hk => ?_⟩
    · rw [hsent, hcfg]
    · rw [← hv, BitVec.ofNat_toNat]
      exact hr'.trans hr
    · rw [State.rxByte_congr hrxbuf' hepoch']
      exact hrx k hk

/-- Settles O51: a build that ends in an error is the last step of its sequence, and the second read's build
comes after one request. -/
theorem failedBuildSendsNothing : Obligations.FailedBuildSendsNothing := by
  intro s peer peer2
  refine ⟨fun a ha => ⟨readRaw_of_overflow ha _, fun a2 => readRaw_of_overflow ha _,
    fun v => writeRegister_of_overflow ha⟩, ?_, ?_, ?_⟩
  · intro a1 a2 p b c h1 h2 hp
    obtain ⟨v, hbytes, -, -⟩ := exists_word_of_bytes b c
    rw [← hbytes]
    obtain ⟨t, hcfg, -, hrun⟩ :=
      readRegisterPair_of_answer (peer := fun _ => .answer (p ++ beBytes 2 v.toNat)) h1 hp rfl
    obtain ⟨hended, hsent⟩ := readRaw_of_overflow (hcfg ▸ h2) (combineReads a1 a2 v)
    rw [hrun]
    exact ⟨hended, congrArg _ hsent⟩
  · intro xv xi l t hstart herr
    have hexec := exec_of_startOp (i := .buildSetOutput) hstart
    obtain ⟨hmem, htxbuf, htxlen⟩ := tx_of_exec_of_error hexec herr
    have hcode : t.err = 1#4 := List.mem_singleton.1 hmem
    rw [setOutput, afterOp_of_error _ hexec herr, hcode]
    exact ⟨rfl, rfl, htxbuf, htxlen⟩
  · intro xv xi l hneg
    have ha : (((s.setA 0 xv).setA 1 xi).setA 2 (l.setWidth 64)).a[0] = xv := by simp
    exact afterOp_of_raise (exec_buildSetOutput_of_negative
      (s := { ((s.setA 0 xv).setA 1 xi).setA 2 (l.setWidth 64) with op := encode .buildSetOutput })
      (ha.symm ▸ hneg)) _

/-- Settles O52: two answered reads, and then `COMBINE_PAIR` of the two words, the first word's high byte and
the second word whole. -/
theorem readRegisterPairCombines : Obligations.ReadRegisterPairCombines := by
  intro s a1 a2 p1 p2 b1 c1 b2 c2 h1 h2 hp1 hp2
  obtain ⟨v1, hbytes1, -, hhigh⟩ := exists_word_of_bytes b1 c1
  obtain ⟨v2, hbytes2, hv2, -⟩ := exists_word_of_bytes b2 c2
  rw [← hbytes1, ← hbytes2]
  obtain ⟨t1, hcfg1, -, hrun⟩ :=
    readRegisterPair_of_answer (peer := fun _ => .answer (p1 ++ beBytes 2 v1.toNat)) (a2 := a2) h1 hp1 rfl
  rw [← hcfg1] at h2
  obtain ⟨t2, hcfg2, hread⟩ :=
    readRaw_of_answer (peer := fun _ => .answer (p2 ++ beBytes 2 v2.toNat)) h2 hp2 rfl
  rw [hrun, hread]
  refine ⟨?_, fun m l hkey => ?_, fun hunknown => ?_⟩
  · rw [combineReads_sent, hcfg1]
  · rw [← hcfg1, ← hcfg2] at hkey
    refine (combineReads_of_key hkey).trans ?_
    rw [physBits_eq, pairValue, hv2, hhigh]
  · rw [← hcfg1, ← hcfg2] at hunknown
    exact combineReads_of_unknown hunknown

/-- Settles O53: what is sent is what the build left in `TXBUF`, and a parse sees nothing of the answer but its
length and its bytes. -/
theorem powerSupplySequences : Obligations.PowerSupplySequences := by
  intro s peer
  refine ⟨fun xv xi l t hstart herr => ?_, pollOutput_sent peer s,
    fun p hanswer => ⟨pollOutput_of_short hanswer, fun u w hlong hp hcfg hlen hrx hexec => ?_⟩⟩
  · obtain ⟨hsent, hended⟩ := setOutput_of_completed_build (peer := peer) hstart herr
    have hlen := length_txBytes_of_buildSetOutput (exec_of_startOp (i := .buildSetOutput) hstart) herr
    exact ⟨hsent, hlen, hended⟩
  · obtain ⟨t, hcfg', hended⟩ := pollOutput_of_fits hanswer hp hlong
    rw [← hcfg, ← hlen] at hlong
    rw [exec_parseOutputResponse_of_fits (hlen.le.trans hp) hlong] at hexec
    obtain rfl := Host.Outcome.next.inj hexec
    have hresults := (sameReceived_presentRx hlen hp hrx).responseResults_eq (hcfg.trans hcfg'.symm) hlong
    rw [hended, ← hresults]
    rfl

end Sys2Proof.Machine

/-! ### Proofs for 60_exceptions.md: error information, precise errors, absent input, and runs that never stop -/

namespace Sys2Proof.Machine

/-! #### An error ends an operation with its own code and information, and nothing else (R95) -/

/-- An operation that reports an error is the raising of one of its own errors. -/
theorem eq_raise_of_exec_of_error {i : Instr} {s t : State} (h : exec i s = .next t) (herr : t.err ≠ 0#4) :
    ∃ e : OpError, errorCode e ∈ errorsOf i ∧ t = s.raise e := by
  obtain ⟨r, hends, hexec⟩ := exec_ends i s
  obtain rfl : s.finish r = t := Host.Outcome.next.inj (hexec.symm.trans h)
  cases hends with
  | completed => exact absurd (State.err_complete _) herr
  | @raised e hmem => exact ⟨e, hmem, rfl⟩

/-- Settles O55: an operation that reports an error ended in `State.raise`, which writes `STATUS` and `ERRINFO`. -/
theorem errorsArePrecise : Obligations.ErrorsArePrecise := by
  intro i s t h herr
  obtain ⟨e, -, rfl⟩ := eq_raise_of_exec_of_error h herr
  exact ⟨⟨e, s.err_raise e, s.raise_errinfo e⟩, s.done_raise e, s.raise_eq e⟩

/-! #### Host accesses to what exists never stop the block (R28, R98) -/

section
variable {s t : State} {x : HostAction}

/-- An access that only names something that exists is served without effect. -/
theorem accessOnly_of_wellFormed {y : HostReg} (h : y.wellFormed = true) (s : State) :
    accessOnly y s = .next s := by
  cases y with
  | tx i => exact accessByte_of_lt (of_decide_eq_true h) s
  | rx i => exact accessByte_of_lt (of_decide_eq_true h) s
  | _ => rfl

/-- A write of `OP` always answers a state: an operation's end, or `IllegalOp` (R44, R95). -/
theorem exists_startOp_eq_next (c : Byte) (s : State) : ∃ t, startOp c s = .next t := by
  rcases startOp_cases c s with ⟨i, r, -, -, h⟩ | ⟨-, h⟩
  · exact ⟨_, h⟩
  · exact ⟨_, h⟩

/-- A well-formed access is served: the block answers a state. -/
theorem exists_serve_eq_next (h : x.wellFormed = true) (s : State) : ∃ t, serve x s = .next t := by
  cases x with
  | read y => exact ⟨s, accessOnly_of_wellFormed h s⟩
  | writeOp c => exact exists_startOp_eq_next c s
  | writeTx i v => exact ⟨s, accessByte_of_lt (of_decide_eq_true h) s⟩
  | writeRx i v => exact ⟨_, accessByte_of_lt (of_decide_eq_true h) _⟩
  | _ => exact ⟨_, rfl⟩

/-- Serving an access leaves the accesses yet to come. -/
theorem Served.host_eq (h : Served s x t) : t.host = s.host := by
  cases h with
  | access => rfl
  | ended hc hr =>
    obtain ⟨-, -, -, -, -, -, hhost⟩ := hr.frame
    exact hhost
  | reserved => rfl
  | reset => rfl

/-- While the pending accesses are well formed a step answers a state, in which they still are. -/
theorem step_keeps_host_wellFormed (h : ∀ x ∈ s.host, x.wellFormed = true) :
    ∃ t, step s = .next t ∧ ∀ x ∈ t.host, x.wellFormed = true := by
  cases hhost : s.host with
  | nil => exact ⟨s, step_nil hhost, h⟩
  | cons x rest =>
    rw [hhost, List.forall_mem_cons] at h
    obtain ⟨hx, hrest⟩ := h
    obtain ⟨t, ht⟩ := exists_serve_eq_next hx { s with host := rest }
    have hkeep : t.host = rest := (served_of_serve ht).host_eq
    exact ⟨t, (step_cons hhost).trans ht, hkeep ▸ hrest⟩

/-- A property that lets every step go on, and holds after it, lets every run go on. -/
theorem neverStops_of_step {P : State → Prop} (hstep : ∀ s, P s → ∃ t, step s = .next t ∧ P t) (hs : P s) :
    s.NeverStops := by
  intro n
  induction n generalizing s with
  | zero => exact ⟨s, rfl⟩
  | succ n ih =>
    obtain ⟨u, hu, hPu⟩ := hstep s hs
    obtain ⟨t, ht⟩ := ih hPu
    exact ⟨t, (run_succ_of_step hu n).trans ht⟩

end

/-- Settles O56: well-formedness of the pending accesses is kept by every step. -/
theorem nothingStopsTheBlock : Obligations.NothingStopsTheBlock :=
  fun _ => neverStops_of_step fun _ => step_keeps_host_wellFormed

/-! #### The layouts of `ERRINFO` (R96) -/

/-- Two 16-bit halves fill `ERRINFO` without loss. -/
theorem toNat_ofNat_halves (v w : Word) :
    (BitVec.ofNat 32 (v.toNat * 65536 + w.toNat)).toNat = v.toNat * 65536 + w.toNat := by
  have hv := v.isLt
  have hw := w.isLt
  rw [BitVec.toNat_ofNat, Nat.mod_eq_of_lt (by omega)]

/-- An operand index above a cause number fits `ERRINFO`. -/
theorem toNat_errorInfo_outOfRange (o : OperandIx) (c : RangeCause) :
    (errorInfo (.outOfRange o c)).toNat = (operandIndex o).toNat * 256 + (causeNumber c).toNat := by
  have ho := (operandIndex o).isLt
  have hc := (causeNumber c).isLt
  rw [errorInfo, BitVec.toNat_ofNat, Nat.mod_eq_of_lt (by omega)]

/-- Settles O54: each error's code, and the number its layout spells. -/
theorem errorCodesAndInformation : Obligations.ErrorCodesAndInformation := by
  intro s
  have hbyte (v : Byte) : (v.setWidth 32).toNat = v.toNat := BitVec.toNat_setWidth_of_le (by decide)
  have hword (v : Word) : (v.setWidth 32).toNat = v.toNat := BitVec.toNat_setWidth_of_le (by decide)
  refine ⟨⟨s.err_complete, s.complete_errinfo⟩, fun v w => ⟨s.err_raise _, toNat_ofNat_halves v w⟩,
    fun v w => ⟨s.err_raise _, toNat_ofNat_halves v w⟩, fun v => ⟨s.err_raise _, hword v⟩,
    fun c => ⟨s.err_raise _, hbyte c⟩, fun v => ⟨s.err_raise _, hword v⟩,
    fun o => ⟨s.err_raise _, hbyte (operandIndex o)⟩,
    fun o c => ⟨s.err_raise _, toNat_errorInfo_outOfRange o c⟩, ?_⟩
  exact ⟨rfl, rfl, rfl, rfl, rfl, rfl, rfl, rfl⟩

/-! #### An absent response (R104) -/

/-- The shortest response holds a field, and a field holds a byte (R23, R68). -/
theorem respMinLen_pos (c : Config.Built) : 0 < c.val.respMinLen := by
  obtain ⟨⟨hwidth, -⟩, -⟩ := c.response
  obtain ⟨hV, -⟩ := fieldsEnd_le_respMinLen c.val
  calc 0 < c.val.respWV := hwidth
    _ ≤ c.val.respOffV[(0 : Fin 3)] + c.val.respWV := Nat.le_add_left _ _
    _ ≤ fieldsEnd c.val.respOffV c.val.respWV := field_le_fieldsEnd _ _ 0
    _ ≤ c.val.respMinLen := hV

/-- Settles O57: no bytes are fewer than either parse needs. -/
theorem absentInputIsAnError : Obligations.AbsentInputIsAnError := by
  intro s hrxlen
  have hzero : 0 = s.rxlen.toNat := by rw [hrxlen]; rfl
  obtain ⟨-, hframe, -⟩ := parseOutputResponseResult s 0 hzero
  obtain ⟨-, hread, -⟩ := parseReadResult s 0 hzero
  have hpos := respMinLen_pos s.cfg
  refine ⟨hpos, ?_, hread (by decide)⟩
  simpa only [Nat.zero_mul, Nat.zero_add] using hframe (by decide) hpos

end Sys2Proof.Machine

/-! ### Proofs for 70_reset_and_hazards.md: the hazards of the set-output frame -/

namespace Sys2Proof.Machine

/-! #### A label that is not recognized (R100, R112) -/

/-- The label unity has the code zero (R24, R62). -/
theorem pfWord_of_toNat_eq_zero (c : Config.Built) {l : Byte} (h : l.toNat = 0) : pfWord c.val l = 0x0000#16 := by
  obtain rfl : l = labelCode .unity := BitVec.eq_of_toNat_eq h
  obtain ⟨-, -, -, -, -, -, hcode⟩ := labelCodesAgree
  rw [pfWord, hcode, c.unity]

/-- A build ends alike for two labels of one wire code: the label is seen through its code only (R66). -/
theorem buildSetOutput_sameEnd_of_pfWord_eq {s s' : State} (hcfg : s.cfg = s'.cfg) (h0 : s.a[0] = s'.a[0])
    (h1 : s.a[1] = s'.a[1])
    (hcode : pfWord s.cfg.val (s.operand 2 8) = pfWord s'.cfg.val (s'.operand 2 8)) :
    ∃ x x', SameEnd .buildSetOutput s s' x x' ∧
      exec .buildSetOutput s = .next (s.finish x) ∧ exec .buildSetOutput s' = .next (s'.finish x') := by
  have hvolt : scaleWord s.cfg.val .a0 (physVal s.a[0]) = scaleWord s'.cfg.val .a0 (physVal s'.a[0]) := by
    rw [hcfg, h0]
  have hamp : scaleWord s.cfg.val .a1 (physVal s.a[1]) = scaleWord s'.cfg.val .a1 (physVal s'.a[1]) := by
    rw [hcfg, h1]
  cases hv : scaleWord s.cfg.val .a0 (physVal s.a[0]) with
  | error e =>
    exact ⟨_, _, .raised e, exec_buildSetOutput_of_voltage_error hv,
      exec_buildSetOutput_of_voltage_error (hvolt ▸ hv)⟩
  | ok v =>
    cases hi : scaleWord s.cfg.val .a1 (physVal s.a[1]) with
    | error e =>
      exact ⟨_, _, .raised e, exec_buildSetOutput_of_current_error hv hi,
        exec_buildSetOutput_of_current_error (hvolt ▸ hv) (hamp ▸ hi)⟩
    | ok w =>
      have hsent' := exec_buildSetOutput_of_ok (hvolt ▸ hv) (hamp ▸ hi)
      rw [← hcode, ← hcfg] at hsent'
      exact ⟨_, _, .sent _ (by simp [setOutputFrame_length]) rfl, exec_buildSetOutput_of_ok hv hi, hsent'⟩

/-- Settles O34: an unrecognized label and unity have the one code zero, and the build sees no more of a label. -/
theorem unrecognizedLabelBuildsUnityFrame : Obligations.UnrecognizedLabelBuildsUnityFrame := by
  intro s s' t t' hcfg h0 h1 hunrecognized hunity ht ht'
  have hcode : pfWord s.cfg.val (s.operand 2 8) = pfWord s'.cfg.val (s'.operand 2 8) := by
    rw [pfWord_of_five_le _ (hunrecognized.trans_eq (s.toNat_operand 2 8).symm),
      pfWord_of_toNat_eq_zero _ ((s'.toNat_operand 2 8).trans hunity)]
  obtain ⟨x, x', hsame, hexec, hexec'⟩ := buildSetOutput_sameEnd_of_pfWord_eq hcfg h0 h1 hcode
  obtain rfl : s.finish x = t := Host.Outcome.next.inj (hexec.symm.trans ht)
  obtain rfl : s'.finish x' = t' := Host.Outcome.next.inj (hexec'.symm.trans ht')
  obtain ⟨hstatus, herrinfo, hcompleted⟩ := hsame.observed
  refine ⟨hstatus, herrinfo, fun herr => ?_⟩
  obtain ⟨-, hbuilt⟩ := hcompleted herr
  exact hbuilt rfl

/-! #### The constant trailer (R50, R110) -/

/-- `TRAILER_FN` with an empty table is the constant strategy (R50). -/
theorem trailerOf_of_empty_table {c : Config.Built} (h : c.val.trailerTable = []) (body : List Byte) :
    trailerOf c.val body = c.val.trailerConst :=
  (trailerOf_eq_iff c body _).2 (.inr ⟨rfl, by simp [h]⟩)

/-- Settles O35: the trailer stands behind the tail, and the constant strategy does not look at the bytes
before it. -/
theorem constantTrailerIgnoresTheFields : Obligations.ConstantTrailerIgnoresTheFields := by
  rintro s t l m htable rfl rfl hexec herr
  obtain ⟨-, hframe⟩ :=
    exec_buildSetOutput_completed (scaledTo_iff.2 ⟨rfl, rfl⟩) (scaledTo_iff.2 ⟨rfl, rfl⟩) hexec herr
  obtain ⟨-, -, -, -, -, -, -, htrailer⟩ := spellsAt_setOutputFrame hframe
  rw [trailerOf_of_empty_table htable] at htrailer
  obtain ⟨-, -, -, -, hconstLen, -⟩ := s.cfg.lengths
  exact (htrailer.eq_pair hconstLen (by omega)).symm

end Sys2Proof.Machine
